-- ==== Sys2Proof/Word.lean ====
section
/-! DEFINITION. The word types of the command port (20_memory.md R52): a 32-bit word, transferred whole, and the
byte a byte-wide link carries. -/

namespace Sys2Proof

/-- A command word or response data: 32 bits, bit 31 most significant (R52). -/
abbrev Word := BitVec 32

/-- One byte on a byte-wide link (R52). -/
abbrev Byte := BitVec 8

end Sys2Proof
end

