-- ==== Sys2Proof/Syntax.lean ====
section
/-! DEFINITION. The commands of the block as syntax: one constructor of `Instr` per row of spec/opcode_table.json
(30_encoding.md R71), with the operands of R73 to R78, and the error codes of 60_exceptions.md R201. -/

namespace Sys2Proof

/-- A motor and encoder channel (00_scope.md R19): A has index 0, B index 1. -/
inductive Channel where
  | a
  | b
  deriving DecidableEq, Repr, Inhabited

/-- The counters a command selects (30_encoding.md R73). SEL = 00 is reserved and names no selection. -/
inductive Sel where
  | a
  | b
  | all
  deriving DecidableEq, Repr

/-- DIR of DRIVE (R75): 0 forward, 1 reverse. -/
inductive Dir where
  | fwd
  | rev
  deriving DecidableEq, Repr

/-- The nine commands (R71). MAG and ANGLE are the integers of R76 and R77 and IDX the index of R78. `WellFormed.lean`
holds their ranges. -/
inductive Instr where
  | nop
  | encReset (sel : Sel)
  | encSnap (sel : Sel)
  | drive (ch : Channel) (dir : Dir) (inv : Bool) (mag : Int)
  | stop (ch : Channel)
  | servoSet (angle : Int)
  | debPoll
  | debClear
  | rdreg (idx : Nat)
  deriving DecidableEq, Repr

/-- The error codes (60_exceptions.md R201). -/
inductive ErrorCode where
  | illegalOp
  | reservedField
  | reservedSel
  | badReg
  deriving DecidableEq, Repr

end Sys2Proof
end

