-- ==== Sys2Proof/WellFormed.lean ====
section
/-! DEFINITION. Which commands have an encoding: the operand ranges of 30_encoding.md R76 to R78, which are also the
ranges the assembler accepts (R85). The other operands have no value outside their encoding. -/

namespace Sys2Proof

/-- A 16-bit signed operand, MAG or ANGLE (R76, R77, R85). -/
def inSigned16 (v : Int) : Bool := decide (-32768 ≤ v) && decide (v ≤ 32767)

/-- An 8-bit unsigned operand, IDX (R78, R85). -/
def inUnsigned8 (v : Nat) : Bool := decide (v ≤ 255)

/-- The operands of the command lie in their ranges. -/
def Instr.wellFormed : Instr → Bool
  | .nop => true
  | .encReset _ => true
  | .encSnap _ => true
  | .drive _ _ _ mag => inSigned16 mag
  | .stop _ => true
  | .servoSet angle => inSigned16 angle
  | .debPoll => true
  | .debClear => true
  | .rdreg idx => inUnsigned8 idx

end Sys2Proof
end

