-- ==== Sys2Proof/Decode.lean ====
section
/-! DEFINITION. The decoder of 30_encoding.md R82, total on any bytes, and after it the encoder written from the same
tables (R71, R72). -/

namespace Sys2Proof

/-! ### Fields -/

/-- The word that holds the bits of `v` from bit `lo` up and 0 elsewhere. A concatenation of 00_scope.md R11 is the
disjunction of its fields. -/
def field {n : Nat} (lo : Nat) (v : BitVec n) : Word := v.setWidth 32 <<< lo

/-- OP = `cmd[31:28]` (R70). -/
def opOf (w : Word) : Nat := (w.extractLsb' 28 4).toNat

/-- The match value of an opcode (R72). -/
def matchOf (op : Nat) : Word := BitVec.ofNat 32 (op * 0x10000000)

/-- The mask of an opcode (R72). An opcode outside 0 to 8 has none, and the decoder never asks for it. -/
def maskOf (op : Nat) : Word :=
  match op with
  | 0 => 0xFFFFFFFF#32
  | 1 => 0xF3FFFFFF#32
  | 2 => 0xF3FFFFFF#32
  | 3 => 0xF1FF0000#32
  | 4 => 0xF7FFFFFF#32
  | 5 => 0xFFFF0000#32
  | 6 => 0xFFFFFFFF#32
  | 7 => 0xFFFFFFFF#32
  | 8 => 0xFFFFFF00#32
  | _ => 0xF0000000#32

/-- SEL = `cmd[27:26]`, bit 26 selecting A and bit 27 selecting B; 00 is no selection (R73). -/
def selOf (w : Word) : Option Sel :=
  match w.getLsbD 27, w.getLsbD 26 with
  | false, false => none
  | false, true => some .a
  | true, false => some .b
  | true, true => some .all

/-- CH = `cmd[27]` (R74). -/
def chOf (w : Word) : Channel := if w.getLsbD 27 then .b else .a

/-- DIR = `cmd[26]` (R75). -/
def dirOf (w : Word) : Dir := if w.getLsbD 26 then .rev else .fwd

/-- INV = `cmd[25]` (R75). -/
def invOf (w : Word) : Bool := w.getLsbD 25

/-- `sext_16(cmd[15:0])`, MAG of DRIVE and ANGLE of SERVO_SET (R76, R77). -/
def signed16Of (w : Word) : Int := (w.extractLsb' 0 16).toInt

/-- `zext_8(cmd[7:0])`, IDX of RDREG (R78). -/
def idxOf (w : Word) : Nat := (w.extractLsb' 0 8).toNat

/-! ### The decoder -/

/-- The command of a word whose opcode and reserved bits have passed (R71). SEL = 00 is found here, last (R82). -/
def decodeFields (op : Nat) (w : Word) : Except ErrorCode Instr :=
  match op with
  | 0 => .ok .nop
  | 1 => match selOf w with
    | some sel => .ok (.encReset sel)
    | none => .error .reservedSel
  | 2 => match selOf w with
    | some sel => .ok (.encSnap sel)
    | none => .error .reservedSel
  | 3 => .ok (.drive (chOf w) (dirOf w) (invOf w) (signed16Of w))
  | 4 => .ok (.stop (chOf w))
  | 5 => .ok (.servoSet (signed16Of w))
  | 6 => .ok .debPoll
  | 7 => .ok .debClear
  | 8 => .ok (.rdreg (idxOf w))
  | _ => .error .illegalOp

/-- `decode(w)` of R82, in the priority order of 60_exceptions.md R206. -/
def decode (w : Word) : Except ErrorCode Instr :=
  let op := opOf w
  if 9 ≤ op then .error .illegalOp
  else if w &&& maskOf op ≠ matchOf op then .error .reservedField
  else decodeFields op w

/-- The word four bytes of a byte-wide link stand for, byte 0 being `word[7:0]` (20_memory.md R52). Any other number
of bytes is no word (R53). -/
def wordOfBytes (bytes : List Byte) : Option Word :=
  match bytes with
  | [b0, b1, b2, b3] => some (field 24 b3 ||| field 16 b2 ||| field 8 b1 ||| field 0 b0)
  | _ => none

/-- The bytes of a word in link order (R52). -/
def bytesOfWord (w : Word) : List Byte :=
  [w.extractLsb' 0 8, w.extractLsb' 8 8, w.extractLsb' 16 8, w.extractLsb' 24 8]

/-- What a link transfer decodes to. -/
inductive Decoded where
  /-- one of the nine commands -/
  | command (i : Instr)
  /-- a whole word that is no command: the block answers with the code (60_exceptions.md R200) -/
  | error (e : ErrorCode)
  /-- not a whole word: no command at all (20_memory.md R53, 30_encoding.md R70) -/
  | notAWord (length : Nat)
  deriving DecidableEq, Repr

/-- The decoder on any bytes. -/
def decodeBytes (bytes : List Byte) : Decoded :=
  match wordOfBytes bytes with
  | none => .notAWord bytes.length
  | some w => match decode w with
    | .ok i => .command i
    | .error e => .error e

/-- The instruction the decoder reads from the bits `w` of a table row of `nbits` bits: the bits laid out as the link
carries them, then decoded. -/
def decodeTableWord (nbits w : Nat) : Option Instr :=
  if 32 < nbits then none
  else match decodeBytes (bytesOfWord (BitVec.ofNat 32 (w % 2 ^ nbits))) with
    | .command i => some i
    | .error _ => none
    | .notAWord _ => none

/-! ### The encoder -/

/-- SEL of a selection (R73). -/
def selBits : Sel → BitVec 2
  | .a => 0b01#2
  | .b => 0b10#2
  | .all => 0b11#2

/-- CH of a channel (R74). -/
def chBit : Channel → BitVec 1
  | .a => 0#1
  | .b => 1#1

/-- DIR of a direction (R75). -/
def dirBit : Dir → BitVec 1
  | .fwd => 0#1
  | .rev => 1#1

/-- The word of a command, field by field as R71 lays them out. A field not named is reserved and zero (R79). -/
def encode : Instr → Word
  | .nop => field 28 0x0#4
  | .encReset sel => field 28 0x1#4 ||| field 26 (selBits sel)
  | .encSnap sel => field 28 0x2#4 ||| field 26 (selBits sel)
  | .drive ch dir inv mag =>
      field 28 0x3#4 ||| field 27 (chBit ch) ||| field 26 (dirBit dir) ||| field 25 (BitVec.ofBool inv) |||
        field 0 (BitVec.ofInt 16 mag)
  | .stop ch => field 28 0x4#4 ||| field 27 (chBit ch)
  | .servoSet angle => field 28 0x5#4 ||| field 0 (BitVec.ofInt 16 angle)
  | .debPoll => field 28 0x6#4
  | .debClear => field 28 0x7#4
  | .rdreg idx => field 28 0x8#4 ||| field 0 (BitVec.ofNat 8 idx)

end Sys2Proof
end

