-- ==== Sys2Proof/Config.lean ====
section
/-! DEFINITION. The implementation parameters of 00_scope.md R10 and the free values of
93_implementation_defined.md. A decided parameter is a definition. An OPEN parameter rests on an opaque constant
without a body, so nothing can be proved of it but its constraint (log entries 8 and 16). -/

namespace Sys2Proof

/-- EDGE_MODE: which A-phase transitions are counted (R10, 40_counter.md R101). -/
inductive EdgeMode where
  | rising
  | falling
  | both
  deriving DecidableEq, Repr, Inhabited

/-- OVERFLOW_POLICY of 93_implementation_defined.md I1. -/
inductive OverflowPolicy where
  | wrap
  | fault
  deriving DecidableEq, Repr

namespace Config

/-! ### Decided parameters -/

/-- COUNT_W, decided 32 (R10, D8). Every definition over the counters takes the width as an argument. -/
abbrev countW : Nat := 32

/-- TIME_W, decided 32 (R10, D21). Every definition over the time base takes the width as an argument. -/
abbrev timeW : Nat := 32

/-- SERVO_LO, fixed 0 (R10). -/
def servoLo : Int := 0

/-- SERVO_HI, fixed 180 (R10). -/
def servoHi : Int := 180

/-- The block wraps on counter overflow (40_counter.md R105, D8; log entry 10). -/
def overflowPolicy : OverflowPolicy := .wrap

/-! ### OPEN parameters

Each raw constant is unconstrained, and the parameter maps it onto exactly the values R10 allows. -/

/-- EDGE_MODE, OPEN. -/
opaque edgeMode : EdgeMode

opaque maxIntensityFree : Nat

/-- MAX_INTENSITY, OPEN, 1 ≤ MAX_INTENSITY ≤ 32767. -/
def maxIntensity : Nat := 1 + maxIntensityFree % 32767

opaque debounceFree : Nat

/-- DEBOUNCE_W in ticks, OPEN, 1 ≤ DEBOUNCE_W < 2^(TIME_W−1). -/
def debounceW : Nat := 1 + debounceFree % (2 ^ (timeW - 1) - 1)

opaque minAngleFree : Nat

/-- MIN_ANGLE, OPEN caller parameter, 0 ≤ MIN_ANGLE ≤ MAX_ANGLE ≤ 180. -/
def minAngle : Nat := minAngleFree % 181

opaque maxAngleFree : Nat

/-- MAX_ANGLE, OPEN caller parameter. -/
def maxAngle : Nat := minAngle + maxAngleFree % (181 - minAngle)

opaque neutralAngleFree : Nat

/-- NEUTRAL_ANGLE, OPEN caller parameter, at most 180. -/
def neutralAngle : Nat := neutralAngleFree % 181

/-- The positive quantity a free rational stands for. -/
def positive (r : Rat) : Rat := if 0 < r then r else 1

opaque minEdgeIntervalFree : Rat

/-- MIN_EDGE_INTERVAL > 0, OPEN, in an unstated unit of physical time. -/
def minEdgeInterval : Rat := positive minEdgeIntervalFree

opaque tickPeriodFree : Rat

/-- TICK_PERIOD > 0, OPEN. -/
def tickPeriod : Rat := positive tickPeriodFree

opaque pwmFreqFree : Rat

/-- PWM_FREQ > 0, OPEN. -/
def pwmFreq : Rat := positive pwmFreqFree

/-- SERVO_MIN_PULSE, OPEN. -/
opaque servoMinPulse : Rat

opaque servoPulseSpanFree : Rat

/-- SERVO_MAX_PULSE, OPEN, above SERVO_MIN_PULSE. -/
def servoMaxPulse : Rat := servoMinPulse + positive servoPulseSpanFree

opaque servoPeriodSlackFree : Rat

/-- SERVO_PERIOD, OPEN, above SERVO_MAX_PULSE. -/
def servoPeriod : Rat := servoMaxPulse + positive servoPeriodSlackFree

/-- RATIO_FN, OPEN, the host-side ratio correction (informative; 30_encoding.md R95). -/
opaque ratioFn : Int → Int

/-! ### Free values -/

/-- The free value of I4: how many of a burst of edges closer than MIN_EDGE_INTERVAL the block counts, one draw per
burst (log entry 7). -/
opaque mergedEdges : Nat → Nat

end Config

end Sys2Proof
end

