-- ==== Sys2Proof/Machine/State.lean ====
section
/-! DEFINITION. The machine's state as plain data: the block's record of 10_state.md R20, the environment levels the
rules read, the response port, and the steps still to come (INVENTORY.md, State). -/

namespace Sys2Proof.Machine

/-- One value for each channel. -/
structure Pair (α : Type) where
  a : α
  b : α
  deriving DecidableEq, Repr

/-- The outputs of one motor channel (10_state.md R23, R24): the two direction pins and the 16-bit duty register. -/
structure Motor where
  in1 : Bool
  in2 : Bool
  duty : BitVec 16
  deriving DecidableEq, Repr

/-- The block's whole state (10_state.md R20), for any COUNT_W and TIME_W. -/
structure Block (countW timeW : Nat) where
  /-- live encoder counts (R21) -/
  cnt : Pair (BitVec countW)
  /-- last snapshots (R22) -/
  snap : Pair (BitVec countW)
  /-- motor outputs (R23, R24) -/
  motor : Pair Motor
  /-- commanded servo angle (R25) -/
  servoAngle : BitVec 8
  /-- servo pulse output enabled (R26) -/
  servoEn : Bool
  /-- debounced level (R27) -/
  debStable : Bool
  /-- raw level at the previous poll (R28) -/
  debLast : Bool
  /-- tick at which the candidate was first seen (R29) -/
  debSince : BitVec timeW
  /-- the time base (R30) -/
  time : BitVec timeW
  deriving DecidableEq, Repr

/-- The response of a command step (44_interface.md R180): RESP_ERR and RESP_DATA. -/
structure Response where
  err : Bool
  data : Word
  deriving DecidableEq, Repr

/-- One step of one agent (00_scope.md R13, R16), or a movement of an input pin (10_state.md R38). -/
inductive Event where
  /-- the controller presents CMD[31:0] (R37) -/
  | command (w : Word)
  /-- a byte-wide link delivers a transfer to the command port (20_memory.md R52, R53) -/
  | link (bytes : List Byte)
  /-- `EncEdge(c)` (40_counter.md R100) -/
  | encEdge (c : Channel)
  /-- k selected edges of channel c closer together than MIN_EDGE_INTERVAL (93_implementation_defined.md I4) -/
  | encBurst (c : Channel) (k : Nat)
  /-- the A-phase input of channel c takes the level v (40_counter.md R101) -/
  | phaseA (c : Channel) (v : Bool)
  /-- the B-phase input of channel c takes the level v (10_state.md R38) -/
  | phaseB (c : Channel) (v : Bool)
  /-- `SwitchLevel(v)` (43_debounce.md R161) -/
  | switchLevel (v : Bool)
  /-- `Tick` (43_debounce.md R160) -/
  | tick
  /-- a servo frame begins (42_servo.md R143) -/
  | servoFrame
  /-- `Reset` (70_reset_and_hazards.md R230) -/
  | reset
  deriving DecidableEq, Repr

/-- The state of the machine. -/
structure State where
  /-- the block (10_state.md R20) -/
  block : Block Config.countW Config.timeW
  /-- environment: the raw switch level SW_RAW (R31) -/
  swRaw : Bool
  /-- environment: the A-phase levels (R38) -/
  phaseA : Pair Bool
  /-- environment: the B-phase levels (R38), read by nothing -/
  phaseB : Pair Bool
  /-- the angle the current servo frame's pulse carries, none for a frame without a pulse (42_servo.md R143) -/
  frameAngle : Option (BitVec 8)
  /-- the response of the last step, none if it was no command (R37, 44_interface.md R180) -/
  resp : Option Response
  /-- the steps still to come, in the total order of 20_memory.md R59 (log entry 1) -/
  schedule : List Event
  /-- the model's own counter of free values drawn (log entry 7) -/
  draws : Nat
  deriving DecidableEq, Repr

/-- Why the machine stops. The block itself never faults (60_exceptions.md R208). -/
inductive Fault where
  /-- Raised by a counted edge at the greatest count, only where OVERFLOW_POLICY is `fault`
  (93_implementation_defined.md I1). The block's policy is wrap, so no step of this machine raises it. Safe. -/
  | counterOverflow (c : Channel)
  deriving DecidableEq, Repr

/-- Why a step has no meaning. -/
inductive Refusal where
  /-- Raised by an arm of `exec` whose instruction has no meaning yet. No arm does. Safe. -/
  | notModelled (mnemonic : String)
  /-- Raised by a link transfer of other than four bytes, which is not a command and which the link, not the block,
  must refuse (20_memory.md R53, 30_encoding.md R70). Safe. -/
  | notAWord (length : Nat)
  deriving DecidableEq, Repr

/-- A stopped motor channel, the reset value (10_state.md R41) and what STOP leaves (41_motor.md R126). -/
def Motor.stopped : Motor := { in1 := false, in2 := false, duty := 0 }

/-- The block after `Reset` (10_state.md R41, 70_reset_and_hazards.md R230). -/
def Block.reset (countW timeW : Nat) : Block countW timeW where
  cnt := ⟨0, 0⟩
  snap := ⟨0, 0⟩
  motor := ⟨Motor.stopped, Motor.stopped⟩
  servoAngle := 0
  servoEn := false
  debStable := true
  debLast := true
  debSince := 0
  time := 0

/-- The machine right after power-on: the block at R41's values, no step pending, no response. The input levels have
no value in the spec and take the ones log entries 4 and 5 name. -/
def State.reset : State where
  block := Block.reset Config.countW Config.timeW
  swRaw := true
  phaseA := ⟨false, false⟩
  phaseB := ⟨false, false⟩
  frameAngle := none
  resp := none
  schedule := []
  draws := 0

end Sys2Proof.Machine
end

