-- ==== Sys2Proof/Machine/Ops.lean ====
section
/-! DEFINITION. The operations every command shares: access to the per-channel registers, answering a command
(00_scope.md R12 `respond`), the error response (`raise Error(code)`, 60_exceptions.md R200), and the reset of the
block. The block takes no exception and returns from none (60_exceptions.md R208, R209): the error response is all it
has in their place. -/

namespace Sys2Proof.Machine

/-- The outcome type of this machine. -/
abbrev Result := Host.Outcome State Fault Refusal

/-- The register of channel c. -/
def Pair.get {α : Type} (p : Pair α) (c : Channel) : α :=
  match c with
  | .a => p.a
  | .b => p.b

/-- Write the register of channel c and no other. -/
def Pair.set {α : Type} (p : Pair α) (c : Channel) (v : α) : Pair α :=
  match c with
  | .a => { p with a := v }
  | .b => { p with b := v }

/-- The membership `c ∈ S` of a selection (30_encoding.md R73). -/
def selects (sel : Sel) (c : Channel) : Bool :=
  match sel, c with
  | .a, .a => true
  | .a, .b => false
  | .b, .a => false
  | .b, .b => true
  | .all, _ => true

/-- Write the selected channels in one step (40_counter.md R102, R104): channel c takes `new`'s value where selected
and keeps its own elsewhere. -/
def Pair.setSel {α : Type} (p : Pair α) (sel : Sel) (new : Pair α) : Pair α where
  a := if selects sel .a then new.a else p.a
  b := if selects sel .b then new.b else p.b

/-- Replace the block's registers. -/
def State.withBlock (s : State) (b : Block Config.countW Config.timeW) : State := { s with block := b }

/-- `respond(err, data)` of R12: the response of this command step, the step then being over. -/
def respond (err : Bool) (data : Word) (s : State) : Result :=
  .next { s with resp := some { err := err, data := data } }

/-- RESP_DATA of an error, `zext_32(code)` (60_exceptions.md R201). -/
def errorData : ErrorCode → Word
  | .illegalOp => 1
  | .reservedField => 2
  | .reservedSel => 3
  | .badReg => 4

/-- `raise Error(code)` of R12: the error response, with no other state change (60_exceptions.md R200). -/
def raiseError (e : ErrorCode) (s : State) : Result := respond true (errorData e) s

/-- The `Reset` step (70_reset_and_hazards.md R230): every field of the block at its reset value, in one step, with no
response. The environment's levels stay (10_state.md R31). The servo pin is held low again, so no pulse is under way
(42_servo.md R143). -/
def resetStep (s : State) : State :=
  { s with block := Block.reset Config.countW Config.timeW, frameAngle := none, resp := none }

end Sys2Proof.Machine
end

