-- ==== Sys2Proof/Machine/Operands.lean ====
section
/-! DEFINITION. The operand computations of the commands: `clamp` (00_scope.md R11), the direction of DRIVE
(41_motor.md R122, R123), and the counting of an edge under an overflow policy (40_counter.md R100, R105). -/

namespace Sys2Proof.Machine

/-- `clamp(x, lo, hi)` of R11. -/
def clamp (x lo hi : Int) : Int := if x < lo then lo else if hi < x then hi else x

/-- The bit of DIR (30_encoding.md R75). -/
def dirIsRev : Dir → Bool
  | .fwd => false
  | .rev => true

/-- `rev = DIR xor INV` (41_motor.md R122). -/
def driveRev (dir : Dir) (inv : Bool) : Bool := dirIsRev dir ^^ inv

/-- The applied magnitude `m` of DRIVE (41_motor.md R121). -/
def appliedMagnitude (maxIntensity : Nat) (mag : Int) : Int := clamp mag 0 maxIntensity

/-- The applied angle `a` of SERVO_SET (42_servo.md R140). -/
def appliedAngle (angle : Int) : Int := clamp angle Config.servoLo Config.servoHi

/-- One increment of a counter: `wrap_COUNT_W(cnt + 1)` (40_counter.md R100, R105), or no value at the greatest count
under the policy `fault` (93_implementation_defined.md I1). -/
def countUp {n : Nat} (policy : OverflowPolicy) (x : BitVec n) : Option (BitVec n) :=
  match policy with
  | .wrap => some (x + 1)
  | .fault => if x = BitVec.intMax n then none else some (x + 1)

/-- Whether EDGE_MODE selects the transition from one level to another (40_counter.md R101). -/
def edgeSelected (mode : EdgeMode) (before after : Bool) : Bool :=
  match mode with
  | .rising => !before && after
  | .falling => before && !after
  | .both => before != after

end Sys2Proof.Machine
end

