-- ==== Sys2Proof/Machine/Flags.lean ====
section
/-! DEFINITION. The only flags a client sees (10_state.md R32): the status bits DEB_POLL returns
(43_debounce.md R162) and the packed registers of the read-only map (44_interface.md R182). The error bit of the
response is in Ops.lean. -/

namespace Sys2Proof.Machine

/-- RESP_DATA of DEB_POLL, the concatenation `rose, fell, stable` zero-extended (43_debounce.md R162). -/
def pollData (rose fell stable : Bool) : Word :=
  field 2 (BitVec.ofBool rose) ||| field 1 (BitVec.ofBool fell) ||| field 0 (BitVec.ofBool stable)

/-- STATUS: bit 0 deb_stable, bit 1 deb_last, bit 2 servo_en (44_interface.md R182). -/
def statusWord {cw tw : Nat} (b : Block cw tw) : Word :=
  field 2 (BitVec.ofBool b.servoEn) ||| field 1 (BitVec.ofBool b.debLast) ||| field 0 (BitVec.ofBool b.debStable)

/-- MOT_A and MOT_B: bits 15:0 duty, bit 16 IN1, bit 17 IN2 (44_interface.md R182). -/
def motorWord (m : Motor) : Word :=
  field 17 (BitVec.ofBool m.in2) ||| field 16 (BitVec.ofBool m.in1) ||| field 0 m.duty

end Sys2Proof.Machine
end

