-- ==== Sys2Proof/Machine/Counter.lean ====
section
/-! DEFINITION. counter_fence (40_counter.md): the edge event, ENC_RESET and ENC_SNAP. Each is one step, so a reset or
snapshot is atomic against every edge (20_memory.md R60). -/

namespace Sys2Proof.Machine

/-! ### The edge event -/

/-- `EncEdge(c)` on the block (R100): only `cnt[c]` changes. -/
def countEdge {cw tw : Nat} (policy : OverflowPolicy) (c : Channel) (b : Block cw tw) : Option (Block cw tw) :=
  (countUp policy (b.cnt.get c)).map fun x => { b with cnt := b.cnt.set c x }

/-- `EncEdge(c)` k times. -/
def countEdges {cw tw : Nat} (policy : OverflowPolicy) (c : Channel) : Nat → Block cw tw → Option (Block cw tw)
  | 0, b => some b
  | k + 1, b => (countEdge policy c b).bind (countEdges policy c k)

/-- The counted edges of a step, a fault where the policy gives the count no next value. -/
def applyEdges (c : Channel) (k : Nat) (s : State) : Result :=
  match countEdges Config.overflowPolicy c k s.block with
  | some b => .next (s.withBlock b)
  | none => .fault (.counterOverflow c)

/-- The `EncEdge(c)` step (R100). DESIGN CHOICE (log entry 6): it leaves the A-phase level of `State.phaseA` as it was,
and a later pin event is compared with that level. -/
def encEdgeStep (c : Channel) (s : State) : Result := applyEdges c 1 s

/-- How many edges of a burst of k the block counts: a free value in 1..k (93_implementation_defined.md I4). -/
def burstGain (draw k : Nat) : Nat := if k = 0 then 0 else 1 + Config.mergedEdges draw % k

/-- A burst of k edges closer together than MIN_EDGE_INTERVAL (70_reset_and_hazards.md R234, I4). DESIGN CHOICE: the
whole burst is one atomic step, so no other step falls between two of its edges (log entry 7), and it leaves the A-phase
level of `State.phaseA` as it was (log entry 6). -/
def encBurstStep (c : Channel) (k : Nat) (s : State) : Result :=
  applyEdges c (burstGain s.draws k) { s with draws := s.draws + 1 }

/-- The A-phase input of channel c takes the level v: one `EncEdge(c)` if EDGE_MODE selects the transition (R101). -/
def phaseAStep (c : Channel) (v : Bool) (s : State) : Result :=
  let k := if edgeSelected Config.edgeMode (s.phaseA.get c) v then 1 else 0
  applyEdges c k { s with phaseA := s.phaseA.set c v }

/-- The B-phase input of channel c takes the level v. It affects no state of the block (10_state.md R38). -/
def phaseBStep (c : Channel) (v : Bool) (s : State) : Result := .next { s with phaseB := s.phaseB.set c v }

/-! ### The commands -/

/-- ENC_RESET on the block: `cnt[c] <- 0` for each selected c (R102). -/
def resetCounters {cw tw : Nat} (sel : Sel) (b : Block cw tw) : Block cw tw :=
  { b with cnt := b.cnt.setSel sel ⟨0, 0⟩ }

/-- ENC_SNAP on the block: `snap[c] <- cnt[c]` for each selected c, at one instant (R104). -/
def snapCounters {cw tw : Nat} (sel : Sel) (b : Block cw tw) : Block cw tw :=
  { b with snap := b.snap.setSel sel b.cnt }

/-- ENC_RESET (R102). -/
def execEncReset (sel : Sel) (s : State) : Result := respond false 0 (s.withBlock (resetCounters sel s.block))

/-- ENC_SNAP (R104). -/
def execEncSnap (sel : Sel) (s : State) : Result := respond false 0 (s.withBlock (snapCounters sel s.block))

end Sys2Proof.Machine
end

