-- ==== Sys2Proof/Machine/Debounce.lean ====
section
/-! DEFINITION. debouncer_fsm and the time base (43_debounce.md): Tick, SwitchLevel, DEB_POLL and DEB_CLEAR. The parts
of R162's pseudocode are functions of the window, the sample r and the block before the poll. -/

namespace Sys2Proof.Machine

/-! ### Environment steps -/

/-- `time <- umod_TIME_W(time + 1)` (R160). -/
def advanceTime {cw tw : Nat} (b : Block cw tw) : Block cw tw := { b with time := b.time + 1 }

/-- The `Tick` step (R160). -/
def tickStep (s : State) : Result := .next (s.withBlock (advanceTime s.block))

/-- The `SwitchLevel(v)` step (R161): no block state changes. -/
def switchLevelStep (v : Bool) (s : State) : Result := .next { s with swRaw := v }

/-! ### DEB_POLL -/

/-- `since` of R162: a sample that differs from the last restarts the candidate timer. -/
def pollSince {cw tw : Nat} (r : Bool) (b : Block cw tw) : BitVec tw :=
  if r = b.debLast then b.debSince else b.time

/-- `el` of R162: the ticks the candidate has persisted, modulo 2^TIME_W. -/
def pollElapsed {cw tw : Nat} (r : Bool) (b : Block cw tw) : Nat := (b.time - pollSince r b).toNat

/-- Whether the poll promotes the candidate (R162, inclusive by R167). -/
def pollPromotes {cw tw : Nat} (window : Nat) (r : Bool) (b : Block cw tw) : Bool :=
  decide (window ≤ pollElapsed r b) && r != b.debStable

/-- `stable` of R162. -/
def pollStable {cw tw : Nat} (window : Nat) (r : Bool) (b : Block cw tw) : Bool :=
  if pollPromotes window r b then r else b.debStable

/-- `fell` of R162, the falling event. -/
def pollFell {cw tw : Nat} (window : Nat) (r : Bool) (b : Block cw tw) : Bool := pollPromotes window r b && !r

/-- `rose` of R162, the rising event. -/
def pollRose {cw tw : Nat} (window : Nat) (r : Bool) (b : Block cw tw) : Bool := pollPromotes window r b && r

/-- The block after a poll that samples r (R162). -/
def pollBlock {cw tw : Nat} (window : Nat) (r : Bool) (b : Block cw tw) : Block cw tw :=
  { b with debLast := r, debSince := pollSince r b, debStable := pollStable window r b }

/-- DEB_POLL for a given DEBOUNCE_W (R162): it samples SW_RAW and reads the time within its own step. -/
def debPollWith (window : Nat) (s : State) : Result :=
  respond false
    (pollData (pollRose window s.swRaw s.block) (pollFell window s.swRaw s.block) (pollStable window s.swRaw s.block))
    (s.withBlock (pollBlock window s.swRaw s.block))

/-- DEB_POLL (R162). -/
def execDebPoll (s : State) : Result := debPollWith Config.debounceW s

/-! ### DEB_CLEAR -/

/-- DEB_CLEAR on the block (R170). -/
def clearDebouncer {cw tw : Nat} (b : Block cw tw) : Block cw tw :=
  { b with debStable := true, debLast := true, debSince := b.time }

/-- DEB_CLEAR (R170). -/
def execDebClear (s : State) : Result := respond false 0 (s.withBlock (clearDebouncer s.block))

end Sys2Proof.Machine
end

