-- ==== Sys2Proof/Machine/Interface.lean ====
section
/-! DEFINITION. The io_ports command interface (44_interface.md): NOP, RDREG and its read-only register map. -/

namespace Sys2Proof.Machine

/-- NOP (R181). -/
def execNop (s : State) : Result := respond false 0 s

/-- `RegRead(i)`, the register index space (20_memory.md R50, 44_interface.md R182). No index reads `cnt` or
`deb_since`. -/
def regRead {cw tw : Nat} (idx : Nat) (b : Block cw tw) : Option Word :=
  match idx with
  | 0 => some (statusWord b)
  | 1 => some (b.snap.a.signExtend 32)
  | 2 => some (b.snap.b.signExtend 32)
  | 3 => some (motorWord b.motor.a)
  | 4 => some (motorWord b.motor.b)
  | 5 => some (b.servoAngle.setWidth 32)
  | 6 => some (b.time.setWidth 32)
  | _ => none

/-- RDREG (R182): an unassigned index is the error BAD_REG (60_exceptions.md R205). -/
def execRdreg (idx : Nat) (s : State) : Result :=
  match regRead idx s.block with
  | some w => respond false w s
  | none => raiseError .badReg s

end Sys2Proof.Machine
end

