-- ==== Sys2Proof/Machine/Motor.lean ====
section
/-! DEFINITION. motor_driver_output (41_motor.md): DRIVE and STOP. All three outputs of a channel change in one step
(20_memory.md R64). -/

namespace Sys2Proof.Machine

/-- The outputs DRIVE gives its channel (R122): exactly one direction pin asserted, and the clamped magnitude. -/
def drivenMotor (maxIntensity : Nat) (dir : Dir) (inv : Bool) (mag : Int) : Motor where
  in1 := !driveRev dir inv
  in2 := driveRev dir inv
  duty := BitVec.ofInt 16 (appliedMagnitude maxIntensity mag)

/-- Write all the outputs of channel c (R127). -/
def setMotor {cw tw : Nat} (c : Channel) (m : Motor) (b : Block cw tw) : Block cw tw :=
  { b with motor := b.motor.set c m }

/-- DRIVE for a given MAX_INTENSITY (R122): the applied magnitude is echoed. -/
def driveWith (maxIntensity : Nat) (ch : Channel) (dir : Dir) (inv : Bool) (mag : Int) (s : State) : Result :=
  respond false (BitVec.ofInt 32 (appliedMagnitude maxIntensity mag))
    (s.withBlock (setMotor ch (drivenMotor maxIntensity dir inv mag) s.block))

/-- DRIVE (R120 to R124). -/
def execDrive (ch : Channel) (dir : Dir) (inv : Bool) (mag : Int) (s : State) : Result :=
  driveWith Config.maxIntensity ch dir inv mag s

/-- STOP (R126). -/
def execStop (ch : Channel) (s : State) : Result :=
  respond false 0 (s.withBlock (setMotor ch Motor.stopped s.block))

end Sys2Proof.Machine
end

