-- ==== Sys2Proof/Machine/Servo.lean ====
section
/-! DEFINITION. servo_output_clamp (42_servo.md): SERVO_SET, and the frame at which the servo output takes a new angle
(R143). -/

namespace Sys2Proof.Machine

/-- SERVO_SET on the block (R140): the clamped angle, and the output enabled. -/
def setServo {cw tw : Nat} (angle : Int) (b : Block cw tw) : Block cw tw :=
  { b with servoAngle := BitVec.ofInt 8 (appliedAngle angle), servoEn := true }

/-- SERVO_SET (R140, R141): the applied angle is echoed. -/
def execServoSet (angle : Int) (s : State) : Result :=
  respond false (BitVec.ofInt 32 (appliedAngle angle)) (s.withBlock (setServo angle s.block))

/-- A servo frame begins: its pulse carries the angle commanded now, and while the output is disabled there is no
pulse (R143). Until the next frame a change of angle has no effect on the pulse (log entry 13). -/
def servoFrameStep (s : State) : Result :=
  .next { s with frameAngle := if s.block.servoEn then some s.block.servoAngle else none }

/-- The width of the pulse that carries an angle (R143). -/
def pulseWidth (minPulse maxPulse : Rat) (angle : BitVec 8) : Rat :=
  minPulse + (angle.toNat : Rat) * (maxPulse - minPulse) / 180

end Sys2Proof.Machine
end

