-- ==== Sys2Proof/Machine/Dispatch.lean ====
section
/-! DEFINITION. The meaning of each command, one arm per constructor of Instr. -/

namespace Sys2Proof.Machine

def exec (i : Instr) (s : State) : Host.Outcome State Fault Refusal :=
  match i with
  | .nop => Sys2Proof.Machine.execNop s
  | .encReset sel => Sys2Proof.Machine.execEncReset sel s
  | .encSnap sel => Sys2Proof.Machine.execEncSnap sel s
  | .drive ch dir inv mag => Sys2Proof.Machine.execDrive ch dir inv mag s
  | .stop ch => Sys2Proof.Machine.execStop ch s
  | .servoSet angle => Sys2Proof.Machine.execServoSet angle s
  | .debPoll => Sys2Proof.Machine.execDebPoll s
  | .debClear => Sys2Proof.Machine.execDebClear s
  | .rdreg idx => Sys2Proof.Machine.execRdreg idx s

end Sys2Proof.Machine
end

