-- ==== Sys2Proof/Machine/Events.lean ====
section
/-! DEFINITION. One step of any agent (00_scope.md R16): a command word through the decoder, a link transfer, or an
event of the environment. -/

namespace Sys2Proof.Machine

/-- A command step: decode the word, then execute the command or answer with the decoder's error
(30_encoding.md R82, 60_exceptions.md R200). -/
def runCommand (w : Word) (s : State) : Result :=
  match decode w with
  | .ok i => exec i s
  | .error e => raiseError e s

/-- A transfer of a byte-wide link: four bytes are a command word, least significant first; anything else is refused
(20_memory.md R52, R53). -/
def runLink (bytes : List Byte) (s : State) : Result :=
  match wordOfBytes bytes with
  | some w => runCommand w s
  | none => .refused (.notAWord bytes.length)

/-- One step. -/
def runEvent (e : Event) (s : State) : Result :=
  match e with
  | .command w => runCommand w s
  | .link bytes => runLink bytes s
  | .encEdge c => encEdgeStep c s
  | .encBurst c k => encBurstStep c k s
  | .phaseA c v => phaseAStep c v s
  | .phaseB c v => phaseBStep c v s
  | .switchLevel v => switchLevelStep v s
  | .tick => tickStep s
  | .servoFrame => servoFrameStep s
  | .reset => .next (resetStep s)

/-- Take the next scheduled step off the schedule, with no response yet on the port: a step that is no command
produces none (44_interface.md R180). With nothing scheduled no agent moves (log entry 2). -/
def takeNext (s : State) : Option (Event × State) :=
  match s.schedule with
  | [] => none
  | e :: rest => some (e, { s with schedule := rest, resp := none })

/-- The state in which no agent moves. -/
def idle (s : State) : State := { s with resp := none }

/-- Put a command word where the next step takes it from: at the head of the schedule (log entry 3). -/
def scheduleCommand (w : Word) (s : State) : State := { s with schedule := .command w :: s.schedule }

end Sys2Proof.Machine
end

