-- ==== Sys2Proof/Machine/Step.lean ====
section
/-! DEFINITION. The step function: the next step of the total order (20_memory.md R59). -/

namespace Sys2Proof.Machine

/-- One step of the machine. -/
def step (s : State) : Host.Outcome State Fault Refusal :=
  match takeNext s with
  | some (e, s') => runEvent e s'
  | none => .next (idle s)

/-- The state whose very next step runs the instruction word `w` of `nbits` bits (log entry 3). -/
def State.withFetchWord (s : State) (nbits w : Nat) : State :=
  scheduleCommand (BitVec.ofNat 32 (w % 2 ^ nbits)) s

end Sys2Proof.Machine
end

