-- ==== Sys2Proof/Machine/Assembler.lean ====
section
/-! DEFINITION. The assembler of 30_encoding.md R84 to R87: one command a line, operand ranges, and the
pseudo-instructions with their expansions. It is a host tool: no step of the machine reads it. -/

namespace Sys2Proof.Machine

/-! ### Commands and pseudo-instructions -/

/-- One assembler line: a command of R71 or a pseudo-instruction of R86. -/
inductive AsmLine where
  | instr (i : Instr)
  | drives (ch : Channel) (s : Int) (inv : Bool)
  | stopAll
  | encRead
  | word (n : Nat)
  deriving DecidableEq, Repr

/-- `SAT16 v`, the host-side saturation (R86). -/
def sat16 (v : Int) : Int := if v < -32768 then -32768 else if 32767 < v then 32767 else v

/-- `DRIVES ch, s, inv` (R86): the sign becomes DIR. The range of MAG refuses s = −32768. -/
def drivesInstr (ch : Channel) (s : Int) (inv : Bool) : Instr :=
  if 0 ≤ s then .drive ch .fwd inv s else .drive ch .rev inv (-s)

/-- The commands of a line (R86), none for `.word`, whose word need not be a command. -/
def expandLine : AsmLine → List Instr
  | .instr i => [i]
  | .drives ch s inv => [drivesInstr ch s inv]
  | .stopAll => [.stop .a, .stop .b]
  | .encRead => [.encSnap .all, .rdreg 1, .rdreg 2]
  | .word _ => []

/-- The words of a line, none where the assembler refuses it (R85). -/
def assembleLine (l : AsmLine) : Option (List Word) :=
  match l with
  | .word n => if n < 2 ^ 32 then some [BitVec.ofNat 32 n] else none
  | .instr _ | .drives _ _ _ | .stopAll | .encRead =>
    if (expandLine l).all Instr.wellFormed then some ((expandLine l).map encode) else none

/-! ### The text of a line (R84) -/

/-- Blank characters between words. -/
def isBlank (c : Char) : Bool := c == ' ' || c == '\t' || c == '\r'

/-- The text without leading and trailing blanks. -/
def trim (cs : List Char) : List Char :=
  ((cs.dropWhile isBlank).reverse.dropWhile isBlank).reverse

/-- The text before the comment, in capitals: keywords are case-insensitive (R84). -/
def codePart (cs : List Char) : List Char := (cs.takeWhile (· != ';')).map Char.toUpper

/-- The operands between commas. -/
def splitCommas : List Char → List (List Char)
  | [] => [[]]
  | c :: cs =>
    match splitCommas cs with
    | [] => [[c]]
    | t :: ts => if c = ',' then [] :: t :: ts else (c :: t) :: ts

/-- The value of a digit in capitals. -/
def digitValue (c : Char) : Option Nat :=
  if '0' ≤ c ∧ c ≤ '9' then some (c.toNat - '0'.toNat)
  else if 'A' ≤ c ∧ c ≤ 'F' then some (c.toNat - 'A'.toNat + 10)
  else none

/-- The digits of a number in a base, after the value read so far. -/
def readDigits (base : Nat) : List Char → Nat → Option Nat
  | [], acc => some acc
  | c :: cs, acc =>
    match digitValue c with
    | some d => if d < base then readDigits base cs (acc * base + d) else none
    | none => none

/-- An unsigned number: decimal, or hexadecimal after 0x (log entry 15). -/
def readNat (cs : List Char) : Option Nat :=
  match cs with
  | '0' :: 'X' :: d :: ds => readDigits 16 (d :: ds) 0
  | d :: ds => readDigits 10 (d :: ds) 0
  | [] => none

/-- A signed number. -/
def readSigned (cs : List Char) : Option Int :=
  match cs with
  | '-' :: ds => (readNat ds).map fun n => -(n : Int)
  | ds => (readNat ds).map fun n => (n : Int)

/-- A MAG or ANGLE operand: a number, or `SAT16` and a number (R86). DESIGN CHOICE (log entry 15): at least one blank,
of any kind, stands between `SAT16` and its number. -/
def readOperand (cs : List Char) : Option Int :=
  match cs with
  | 'S' :: 'A' :: 'T' :: '1' :: '6' :: c :: rest =>
    if isBlank c then (readSigned (trim rest)).map sat16 else none
  | ds => readSigned ds

/-- A channel operand (R84). -/
def readChannel (cs : List Char) : Option Channel :=
  if cs = "A".toList then some .a else if cs = "B".toList then some .b else none

/-- A selection operand (R84). SEL = 00 has no syntax (R85). -/
def readSel (cs : List Char) : Option Sel :=
  if cs = "A".toList then some .a
  else if cs = "B".toList then some .b
  else if cs = "ALL".toList then some .all
  else none

/-- A direction operand (R84). -/
def readDir (cs : List Char) : Option Dir :=
  if cs = "FWD".toList then some .fwd else if cs = "REV".toList then some .rev else none

/-- An inversion operand (R84). -/
def readInv (cs : List Char) : Option Bool :=
  if cs = "NOINV".toList then some false else if cs = "INV".toList then some true else none

/-- An index operand: a register name of 44_interface.md R182, or a number (R84). -/
def readIdx (cs : List Char) : Option Nat :=
  if cs = "STATUS".toList then some 0
  else if cs = "SNAP_A".toList then some 1
  else if cs = "SNAP_B".toList then some 2
  else if cs = "MOT_A".toList then some 3
  else if cs = "MOT_B".toList then some 4
  else if cs = "SERVO".toList then some 5
  else if cs = "TIME".toList then some 6
  else readNat cs

/-- A line of a mnemonic in capitals and its operands (R84, R86). DESIGN CHOICE (log entry 15): the s operand of DRIVES
may be a `SAT16` operand too, which R86 names for MAG and ANGLE only. -/
def readLine (mnemonic : List Char) (operands : List (List Char)) : Option AsmLine :=
  match operands with
  | [] =>
    if mnemonic = "NOP".toList then some (.instr .nop)
    else if mnemonic = "DEB_POLL".toList then some (.instr .debPoll)
    else if mnemonic = "DEB_CLEAR".toList then some (.instr .debClear)
    else if mnemonic = "STOP_ALL".toList then some .stopAll
    else if mnemonic = "ENC_READ".toList then some .encRead
    else none
  | [x] =>
    if mnemonic = "ENC_RESET".toList then (readSel x).map fun sel => .instr (.encReset sel)
    else if mnemonic = "ENC_SNAP".toList then (readSel x).map fun sel => .instr (.encSnap sel)
    else if mnemonic = "STOP".toList then (readChannel x).map fun ch => .instr (.stop ch)
    else if mnemonic = "SERVO_SET".toList then (readOperand x).map fun v => .instr (.servoSet v)
    else if mnemonic = "RDREG".toList then (readIdx x).map fun n => .instr (.rdreg n)
    else if mnemonic = ".WORD".toList then (readNat x).map .word
    else none
  | [x, y, z] =>
    if mnemonic = "DRIVES".toList then
      (readChannel x).bind fun ch => (readOperand y).bind fun v => (readInv z).map fun inv => .drives ch v inv
    else none
  | [x, y, z, w] =>
    if mnemonic = "DRIVE".toList then
      (readChannel x).bind fun ch => (readDir y).bind fun dir => (readInv z).bind fun inv =>
        (readOperand w).map fun mag => .instr (.drive ch dir inv mag)
    else none
  | _ => none

/-- Assemble one line of text: the words it stands for, none where the assembler refuses it. A line without code
stands for no word. -/
def assembleText (line : List Char) : Option (List Word) :=
  let code := trim (codePart line)
  let mnemonic := code.takeWhile (fun c => !isBlank c)
  let rest := trim (code.dropWhile (fun c => !isBlank c))
  let operands := if rest = [] then [] else (splitCommas rest).map trim
  if code = [] then some []
  else (readLine mnemonic operands).bind assembleLine

end Sys2Proof.Machine
end

