-- ==== Sys2Proof/Machine/HostProtocol.lean ====
section
/-! DEFINITION. What the host's text messages mean for the block (30_encoding.md R92 to R97, informative): the commands
a conforming interpreter issues and the reply it forms. The interpreter itself is out of scope (00_scope.md R5), so
no step of the machine reads this file. -/

namespace Sys2Proof.Machine

/-- A message of the text protocol, already parsed. -/
inductive Message where
  | encReset
  | encRead
  | move (a b s : Int)
  | other
  deriving DecidableEq, Repr

/-- The commands a message expands to, in order (R93 to R96). -/
def Message.commands : Message → List Instr
  | .encReset => [.encReset .all]
  | .encRead => expandLine .encRead
  | .move a b s =>
    [.drive .a .fwd true (sat16 a), .drive .b .fwd false (sat16 (Config.ratioFn b)), .servoSet (sat16 s)]
  | .other => []

/-- Issue commands one after another with no other agent's step between them, collecting the responses. -/
def runInstrs : List Instr → State → Option (List Response × State)
  | [], s => some ([], s)
  | i :: is, s =>
    match exec i s with
    | .next t =>
      match t.resp, runInstrs is t with
      | some r, some (rs, u) => some (r :: rs, u)
      | _, _ => none
    | .fault _ => none
    | .refused _ => none

/-- A reply of the interpreter. The text of the reply to a `move` is not in the source (91_not_in_source.md N14). -/
inductive Reply where
  | encOk
  | counts (a b : Int)
  | applied (a b s : Int)
  | unknownCmd
  deriving DecidableEq, Repr

/-- The reply formed from the responses to the message's commands (R93 to R96). -/
def Message.reply (m : Message) (rs : List Response) : Option Reply :=
  match m, rs with
  | .encReset, [_] => some .encOk
  | .encRead, [_, a, b] => some (.counts a.data.toInt b.data.toInt)
  | .move _ _ _, [a, b, s] => some (.applied a.data.toInt b.data.toInt s.data.toInt)
  | .other, [] => some .unknownCmd
  | _, _ => none

/-- The trigger of the autonomous sweep: the falling event in a DEB_POLL response (R97). -/
def triggersSweep (poll : Response) : Bool := !poll.err && poll.data.getLsbD 1

end Sys2Proof.Machine
end

