-- ==== Sys2Proof/Machine/Ports.lean ====
section
/-! DEFINITION. The output ports (10_state.md R34 to R36): what the pins carry, as a function of the state a step
leaves. The phase of a carrier is not observed (41_motor.md R128, 42_servo.md R143). -/

namespace Sys2Proof.Machine

/-- The three output pins of a motor channel (10_state.md R34). -/
structure MotorPort where
  in1 : Bool
  in2 : Bool
  /-- the high fraction of the pulse train (41_motor.md R128) -/
  high : Rat
  deriving DecidableEq, Repr

/-- Every output port of the block. -/
structure Ports where
  motor : Pair MotorPort
  /-- the frequency of both motor pulse trains, PWM_FREQ (41_motor.md R128) -/
  carrier : Rat
  /-- the width of the servo pulse of the current frame, none while the pin is held low (42_servo.md R143) -/
  servoPwm : Option Rat
  /-- the frame period of the servo output, SERVO_PERIOD (42_servo.md R143) -/
  servoFrame : Rat
  /-- SW_STABLE (10_state.md R36) -/
  swStable : Bool
  deriving DecidableEq, Repr

/-- The duty fraction `duty / MAX_INTENSITY` (41_motor.md R128). -/
def motorPort (maxIntensity : Nat) (m : Motor) : MotorPort where
  in1 := m.in1
  in2 := m.in2
  high := (m.duty.toNat : Rat) / (maxIntensity : Rat)

/-- SERVO_PWM: low while disabled, else the pulse of the current frame (10_state.md R35, 42_servo.md R143). -/
def servoPort (servoEn : Bool) (frameAngle : Option (BitVec 8)) : Option Rat :=
  if servoEn then frameAngle.map (pulseWidth Config.servoMinPulse Config.servoMaxPulse) else none

/-- The output ports after a step (10_state.md R34 to R36). -/
def ports (s : State) : Ports where
  motor := ⟨motorPort Config.maxIntensity s.block.motor.a, motorPort Config.maxIntensity s.block.motor.b⟩
  carrier := Config.pwmFreq
  servoPwm := servoPort s.block.servoEn s.frameAngle
  servoFrame := Config.servoPeriod
  swStable := s.block.debStable

end Sys2Proof.Machine
end

