-- ==== Sys2Proof/Safety.lean ====
section
/-! DEFINITION. What claims about runs are stated in: the safety properties of the outputs (41_motor.md R129), the
observations of 00_scope.md R14, and the premises on the environment and the controller that
70_reset_and_hazards.md and 93_implementation_defined.md name. -/

namespace Sys2Proof.Machine

/-! ### Safe outputs -/

/-- The outputs of one motor channel are safe: never both direction pins, and the duty within its bound
(10_state.md R23, R24). -/
def Motor.Safe (maxIntensity : Nat) (m : Motor) : Prop :=
  ¬ (m.in1 = true ∧ m.in2 = true) ∧ m.duty.toNat ≤ maxIntensity

/-- The invariants the spec states of every reachable state (10_state.md R23 to R26, 41_motor.md R129), with those of
the servo output they carry along (42_servo.md R143). -/
structure State.Safe (s : State) : Prop where
  motor : ∀ c, (s.block.motor.get c).Safe Config.maxIntensity
  servo : s.block.servoAngle.toNat ≤ 180
  servoOff : s.block.servoEn = false → s.block.servoAngle = 0
  frame : ∀ a, s.frameAngle = some a → a.toNat ≤ 180 ∧ s.block.servoEn = true

/-! ### Observations (00_scope.md R14) -/

/-- The command word an event presents to the block. -/
def Event.word (e : Event) : Option Word :=
  match e with
  | .command w => some w
  | .link bytes => wordOfBytes bytes
  | .encEdge _ | .encBurst _ _ | .phaseA _ _ | .phaseB _ _ | .switchLevel _ | .tick | .servoFrame | .reset => none

/-- The command an event makes the block execute. -/
def Event.instr (e : Event) : Option Instr :=
  match e.word with
  | some w => match decode w with
    | .ok i => some i
    | .error _ => none
  | none => none

/-- What can be observed of one step: the command and its response, and the output ports after it. The live counters,
`deb_last` and `deb_since` are not read (10_state.md R40). -/
structure Observation where
  command : Option Word
  response : Option Response
  out : Ports
  deriving DecidableEq, Repr

/-- The observations of the first n steps. -/
def observations : Nat → State → List Observation
  | 0, _ => []
  | n + 1, s =>
    match step s with
    | .next t => ⟨s.schedule.head?.bind Event.word, t.resp, ports t⟩ :: observations n t
    | .fault _ => []
    | .refused _ => []

/-- The responses among the first n steps, in order. -/
def responses (n : Nat) (s : State) : List Response := (observations n s).filterMap Observation.response

/-- The falling event of a DEB_POLL response, bit 1 (43_debounce.md R162). -/
def reportsFall (r : Response) : Bool := r.data.getLsbD 1

/-- The rising event of a DEB_POLL response, bit 2 (43_debounce.md R162). -/
def reportsRise (r : Response) : Bool := r.data.getLsbD 2

/-- How many polls of the first n steps report an event of the given kind. -/
def eventCount (reports : Response → Bool) : Nat → State → Nat
  | 0, _ => 0
  | n + 1, s =>
    match step s with
    | .next t =>
      (if s.schedule.head?.bind Event.instr = some .debPoll ∧ t.resp.any reports = true then 1 else 0) +
        eventCount reports n t
    | .fault _ => 0
    | .refused _ => 0

/-! ### Premises -/

/-- The event is a step of the block: not a link transfer of a partial word (20_memory.md R53). -/
def Event.isStep (e : Event) : Bool :=
  match e with
  | .link bytes => decide (bytes.length = 4)
  | .command _ | .encEdge _ | .encBurst _ _ | .phaseA _ _ | .phaseB _ _ | .switchLevel _ | .tick | .servoFrame
  | .reset => true

/-- The event is no burst of edges of channel c closer than MIN_EDGE_INTERVAL (70_reset_and_hazards.md R234). -/
def Event.spacedFor (c : Channel) (e : Event) : Bool :=
  match e with
  | .encBurst d _ => decide (d ≠ c)
  | .command _ | .link _ | .encEdge _ | .phaseA _ _ | .phaseB _ _ | .switchLevel _ | .tick | .servoFrame
  | .reset => true

/-- The event resets the counter of channel c: `Reset`, or an ENC_RESET that selects c (10_state.md R39). -/
def Event.clears (c : Channel) (e : Event) : Bool :=
  match e, e.instr with
  | .reset, _ => true
  | _, some (.encReset sel) => selects sel c
  | _, _ => false

/-- The event snapshots channel c (10_state.md R39). -/
def Event.snapshots (c : Channel) (e : Event) : Bool :=
  match e.instr with
  | some (.encSnap sel) => selects sel c
  | _ => false

/-- The A-phase level of channel c after an event. -/
def Event.levelAfter (c : Channel) (level : Bool) (e : Event) : Bool :=
  match e with
  | .phaseA d v => if d = c then v else level
  | _ => level

/-- How many `EncEdge(c)` steps an event stands for, given the A-phase level before it (40_counter.md R100, R101). A
burst stands for no definite number and counts none here: `Event.spacedFor` excludes it. -/
def Event.edges (c : Channel) (level : Bool) (e : Event) : Nat :=
  match e with
  | .encEdge d => if d = c then 1 else 0
  | .phaseA d v => if d = c ∧ edgeSelected Config.edgeMode level v = true then 1 else 0
  | _ => 0

/-- The number of `EncEdge(c)` steps among a list of events (40_counter.md R107). -/
def edgesIn (c : Channel) : Bool → List Event → Nat
  | _, [] => 0
  | level, e :: es => e.edges c level + edgesIn c (e.levelAfter c level) es

/-- The event leaves the switch at level r and the debouncer to its polls: no other switch level, no `Reset`, no
DEB_CLEAR. -/
def Event.holdsSwitch (r : Bool) (e : Event) : Bool :=
  match e, e.instr with
  | .switchLevel v, _ => v == r
  | .reset, _ => false
  | _, some .debClear => false
  | _, _ => true

/-- The raw switch level after an event. -/
def Event.rawAfter (level : Bool) (e : Event) : Bool :=
  match e with
  | .switchLevel v => v
  | _ => level

/-- The event returns the debouncer to its reset state: `Reset` or DEB_CLEAR (10_state.md R39). -/
def Event.clearsDebouncer (e : Event) : Bool :=
  match e, e.instr with
  | .reset, _ => true
  | _, some .debClear => true
  | _, _ => false

/-- Every poll of a list of events samples r, the raw level being `level` before them, and no event returns the
debouncer to its reset state (43_debounce.md R165). Between polls the level may move. -/
def pollsSample (r : Bool) : Bool → List Event → Bool
  | _, [] => true
  | level, e :: es =>
    !e.clearsDebouncer && (decide (e.instr ≠ some .debPoll) || level == r) && pollsSample r (e.rawAfter level) es

/-- Some poll of a list of events comes `window` or more ticks after a start, `since` ticks having passed before
them (43_debounce.md R166). -/
def pollDue (window : Nat) : Nat → List Event → Bool
  | _, [] => false
  | since, e :: es =>
    (decide (e.instr = some .debPoll) && decide (window ≤ since)) ||
      pollDue window (if e = .tick then since + 1 else since) es

/-- The number of `Tick` steps among a list of events. -/
def ticksIn (es : List Event) : Nat := es.countP (· = .tick)

/-- Consecutive polls stay fewer than 2^TIME_W − DEBOUNCE_W ticks apart (70_reset_and_hazards.md R236), `since` ticks
having passed since the last. -/
def pollsInTime (bound : Nat) : Nat → List Event → Bool
  | _, [] => true
  | since, e :: es =>
    if e = .tick then decide (since + 1 < bound) && pollsInTime bound (since + 1) es
    else if e.instr = some .debPoll then pollsInTime bound 0 es
    else pollsInTime bound since es

/-- No command of the run is answered with an error (93_implementation_defined.md I8). -/
def NoErrorResponse (n : Nat) (s : State) : Prop := ∀ r ∈ responses n s, r.err = false

/-- The caller keeps the servo in its safe sub-range (42_servo.md R142). -/
def Event.servoInRange (e : Event) : Bool :=
  match e.instr with
  | some (.servoSet angle) => decide ((Config.minAngle : Int) ≤ angle) && decide (angle ≤ (Config.maxAngle : Int))
  | _ => true

/-- Weak fairness of the time base and the controller on an infinite order of steps (00_scope.md R16). -/
def WeaklyFair (order : Nat → Event) : Prop :=
  (∀ n, ∃ m, n ≤ m ∧ order m = .tick) ∧ (∀ n, ∃ m, n ≤ m ∧ (order m).word.isSome = true)

end Sys2Proof.Machine
end

