-- ==== Sys2Proof/Certificates/Slice0/Obligations.lean ====
section
/-! DEFINITION. The statements for the provers. Each docstring names the rule of spec/ it formalises. -/

open Sys2Proof Sys2Proof.Machine

/-! ### Encoding -/

/-- 30_encoding.md R71, R82: decoding the encoding of a well-formed command gives that command back. -/
def Obligations.DecodeOfEncodeIsIdentity : Prop :=
  ∀ i : Instr, i.wellFormed = true → decode (encode i) = .ok i

/-- 30_encoding.md R71, R82: a word that decodes to a command is that command's one encoding, and the command is
well-formed. -/
def Obligations.EncodeOfDecodeIsIdentity : Prop :=
  ∀ (w : Word) (i : Instr), decode w = .ok i → i.wellFormed = true ∧ encode i = w

/-- 30_encoding.md R71, 95_test_vectors.md: words of the spec decode to the commands they stand for. -/
def Obligations.WrittenWordsDecode : Prop :=
  decode 0x00000000#32 = .ok .nop ∧
  decode 0x1C000000#32 = .ok (.encReset .all) ∧
  decode 0x24000000#32 = .ok (.encSnap .a) ∧
  decode 0x3800FFFB#32 = .ok (.drive .b .fwd false (-5)) ∧
  decode 0x36000064#32 = .ok (.drive .a .rev true 100) ∧
  decode 0x48000000#32 = .ok (.stop .b) ∧
  decode 0x5000005A#32 = .ok (.servoSet 90) ∧
  decode 0x60000000#32 = .ok .debPoll ∧
  decode 0x70000000#32 = .ok .debClear ∧
  decode 0x800000FF#32 = .ok (.rdreg 255)

/-- 60_exceptions.md R202: any word with an opcode of 9 or more is answered (1, 1), whatever its other bits. -/
def Obligations.IllegalOpcodeAnswered : Prop :=
  ∀ (w : Word) (s : State), 9 ≤ (w.extractLsb' 28 4).toNat →
    runCommand w s = .next { s with resp := some ⟨true, 1⟩ }

/-- 30_encoding.md R79, 60_exceptions.md R203: a word with a valid opcode is answered (1, 2) exactly when one of the
bits R71 marks 0 for that opcode is 1: it is then answered so in every state, and otherwise in no state. -/
def Obligations.ReservedBitAnswered : Prop :=
  ∀ (w : Word), (w.extractLsb' 28 4).toNat ≤ 8 →
    (decode w = .error .reservedField ↔
      match (w.extractLsb' 28 4).toNat with
      | 1 => w.extractLsb' 0 26 ≠ 0
      | 2 => w.extractLsb' 0 26 ≠ 0
      | 3 => w.extractLsb' 16 9 ≠ 0
      | 4 => w.extractLsb' 0 27 ≠ 0
      | 5 => w.extractLsb' 16 12 ≠ 0
      | 8 => w.extractLsb' 8 20 ≠ 0
      | _ => w.extractLsb' 0 28 ≠ 0) ∧
    (decode w = .error .reservedField → ∀ s : State, runCommand w s = .next { s with resp := some ⟨true, 2⟩ }) ∧
    (decode w ≠ .error .reservedField → ∀ s : State, ∃ t, runCommand w s = .next t ∧ t.resp ≠ some ⟨true, 2⟩)

/-- 60_exceptions.md R204: ENC_RESET or ENC_SNAP with SEL = 00 and no reserved bit set is answered (1, 3), and no
counter and no snapshot changes. -/
def Obligations.ReservedSelectionAnswered : Prop :=
  ∀ (w : Word) (s : State), ((w.extractLsb' 28 4).toNat = 1 ∨ (w.extractLsb' 28 4).toNat = 2) →
    w.extractLsb' 26 2 = 0 → w.extractLsb' 0 26 = 0 →
    runCommand w s = .next { s with resp := some ⟨true, 3⟩ }

/-- 60_exceptions.md R205: RDREG with IDX in 0x07 to 0xFF and no reserved bit set is answered (1, 4). -/
def Obligations.UnassignedIndexAnswered : Prop :=
  ∀ (w : Word) (s : State), (w.extractLsb' 28 4).toNat = 8 → w.extractLsb' 8 20 = 0 →
    7 ≤ (w.extractLsb' 0 8).toNat → runCommand w s = .next { s with resp := some ⟨true, 4⟩ }

/-- 60_exceptions.md R200: a command step that is answered with an error writes no other state. -/
def Obligations.ErrorResponseChangesNothing : Prop :=
  ∀ (w : Word) (s t : State) (data : Word), runCommand w s = .next t → t.resp = some ⟨true, data⟩ →
    t = { s with resp := some ⟨true, data⟩ }

/-! ### The step -/

/-- 00_scope.md R16, 20_memory.md R59, 60_exceptions.md R200: when the next scheduled step is a command word, the step
is runCommand of that word at the state in which it is taken off the schedule and the response port is empty. If the word
decodes to i, that is exec of i; if it decodes to an error, it is the answer (1, code), with the codes of R201, and no
other state is written. -/
def Obligations.StepRunsDecodedCommand : Prop :=
  ∀ (s : State) (w : Word) (rest : List Event), s.schedule = .command w :: rest →
    step s = runCommand w { s with schedule := rest, resp := none } ∧
    (∀ i : Instr, decode w = .ok i → step s = exec i { s with schedule := rest, resp := none }) ∧
    (∀ e : ErrorCode, decode w = .error e → step s = .next { s with
      schedule := rest
      resp := some ⟨true, match e with
        | .illegalOp => 1
        | .reservedField => 2
        | .reservedSel => 3
        | .badReg => 4⟩ })

/-- 20_memory.md R52: four bytes of a byte-wide link are one command word, byte 0 being bits 7:0 and byte 3 bits
31:24. That their transfer is one atomic step, which runs the word, is the model's choice (log entry 21). -/
def Obligations.LinkCarriesWordsLittleEndian : Prop :=
  ∀ (s : State) (b0 b1 b2 b3 : Byte) (rest : List Event) (w : Word),
    w.toNat = b0.toNat + 2 ^ 8 * b1.toNat + 2 ^ 16 * b2.toNat + 2 ^ 24 * b3.toNat →
    s.schedule = .link [b0, b1, b2, b3] :: rest →
    step s = runCommand w { s with schedule := rest, resp := none }

/-- 20_memory.md R53, 30_encoding.md R70: a link transfer of fewer than four bytes, or of any other length than four, is
not a command. That the model refuses a longer transfer as it does a partial word, and that the machine stops there, is
the model's choice (log entry 12). -/
def Obligations.PartialWordRefused : Prop :=
  ∀ (s : State) (bytes : List Byte) (rest : List Event), s.schedule = .link bytes :: rest → bytes.length ≠ 4 →
    step s = .refused (.notAWord bytes.length)

/-- 00_scope.md R16, 60_exceptions.md R208: every step of every agent is enabled in every state. A link transfer that
is not a whole word is no step of the block. -/
def Obligations.EveryStepIsEnabled : Prop :=
  ∀ (s : State) (e : Event) (rest : List Event), s.schedule = e :: rest → e.isStep = true →
    ∃ t, step s = .next t ∧ t.schedule = rest

/-- The model's choice (log entry 2), no rule of the spec: with nothing scheduled no agent moves, and a step only clears
the response port. -/
def Obligations.EmptyScheduleIdles : Prop :=
  ∀ s : State, s.schedule = [] → step s = .next { s with resp := none }

/-- 44_interface.md R180: a step leaves a response exactly when it was a command step. -/
def Obligations.OnlyCommandsAreAnswered : Prop :=
  ∀ (s t : State) (e : Event) (rest : List Event), s.schedule = e :: rest → step s = .next t →
    (t.resp.isSome = true ↔ e.word.isSome = true)

/-- 10_state.md R39, the access matrix: a step changes a field of the block only if the matrix lists it for that field.
`encBurst c k` and `phaseA c v` are the model's forms of `EncEdge(c)` (log entries 6 and 7). -/
def Obligations.StepWritesOnlyItsFields : Prop :=
  ∀ (s t : State) (e : Event) (rest : List Event), s.schedule = e :: rest → step s = .next t →
    (∀ c, t.block.cnt.get c ≠ s.block.cnt.get c →
      e = .encEdge c ∨ (∃ k, e = .encBurst c k) ∨ (∃ v, e = .phaseA c v) ∨ e.clears c = true) ∧
    (∀ c, t.block.snap.get c ≠ s.block.snap.get c → e = .reset ∨ e.snapshots c = true) ∧
    (∀ c, t.block.motor.get c ≠ s.block.motor.get c →
      e = .reset ∨ e.instr = some (.stop c) ∨ ∃ dir inv mag, e.instr = some (.drive c dir inv mag)) ∧
    (t.block.servoAngle ≠ s.block.servoAngle ∨ t.block.servoEn ≠ s.block.servoEn →
      e = .reset ∨ ∃ angle, e.instr = some (.servoSet angle)) ∧
    (t.block.debStable ≠ s.block.debStable ∨ t.block.debLast ≠ s.block.debLast ∨
        t.block.debSince ≠ s.block.debSince →
      e = .reset ∨ e.instr = some .debPoll ∨ e.instr = some .debClear) ∧
    (t.block.time ≠ s.block.time → e = .tick ∨ e = .reset) ∧
    (t.swRaw ≠ s.swRaw → ∃ v, e = .switchLevel v)

/-! ### What the commands do -/

/-- 44_interface.md R181: NOP is the word 0, answers (0, 0) and changes no state; any other word with opcode 0 is the
error RESERVED_FIELD. -/
def Obligations.NopOnlyAnswers : Prop :=
  encode .nop = 0x00000000#32 ∧
  (∀ s : State, exec .nop s = .next { s with resp := some ⟨false, 0⟩ }) ∧
  (∀ w : Word, (w.extractLsb' 28 4).toNat = 0 → w ≠ 0 → decode w = .error .reservedField)

/-- 40_counter.md R102 (30_encoding.md R73 for the selection): ENC_RESET clears the selected counters in one step,
answers (0, 0), and changes nothing else, the snapshots in particular. -/
def Obligations.EncResetClearsSelectedCounters : Prop :=
  ∀ s : State,
    exec (.encReset .a) s =
      .next { s with block := { s.block with cnt := ⟨0, s.block.cnt.b⟩ }, resp := some ⟨false, 0⟩ } ∧
    exec (.encReset .b) s =
      .next { s with block := { s.block with cnt := ⟨s.block.cnt.a, 0⟩ }, resp := some ⟨false, 0⟩ } ∧
    exec (.encReset .all) s =
      .next { s with block := { s.block with cnt := ⟨0, 0⟩ }, resp := some ⟨false, 0⟩ }

/-- 40_counter.md R104: ENC_SNAP copies the selected counters to the snapshot registers in one step, answers (0, 0),
and changes nothing else, the counters in particular. -/
def Obligations.EncSnapCopiesSelectedCounters : Prop :=
  ∀ s : State,
    exec (.encSnap .a) s =
      .next { s with block := { s.block with snap := ⟨s.block.cnt.a, s.block.snap.b⟩ },
                     resp := some ⟨false, 0⟩ } ∧
    exec (.encSnap .b) s =
      .next { s with block := { s.block with snap := ⟨s.block.snap.a, s.block.cnt.b⟩ },
                     resp := some ⟨false, 0⟩ } ∧
    exec (.encSnap .all) s =
      .next { s with block := { s.block with snap := ⟨s.block.cnt.a, s.block.cnt.b⟩ },
                     resp := some ⟨false, 0⟩ }

/-- 41_motor.md R122: what DRIVE does to its channel and answers, and that everything else stays. -/
def Obligations.DriveSetsItsChannel : Prop :=
  ∀ (ch : Channel) (dir : Dir) (inv : Bool) (mag : Int) (s : State),
    exec (.drive ch dir inv mag) s =
      .next { s with
        block := { s.block with
          motor := s.block.motor.set ch
            { in1 := !(decide (dir = .rev) ^^ inv)
              in2 := decide (dir = .rev) ^^ inv
              duty := BitVec.ofInt 16 (max 0 (min mag Config.maxIntensity)) } }
        resp := some ⟨false, BitVec.ofInt 32 (max 0 (min mag Config.maxIntensity))⟩ }

/-- 41_motor.md R121: the applied magnitude is MAG clamped to [0, MAX_INTENSITY], a negative MAG gives 0 and never
reverses the motor, a MAG above MAX_INTENSITY gives MAX_INTENSITY, and the response carries the applied value with
RESP_ERR = 0. -/
def Obligations.DriveClampsMagnitude : Prop :=
  ∀ (ch : Channel) (dir : Dir) (inv : Bool) (mag : Int) (s : State),
    ∃ (t : State) (data : Word), exec (.drive ch dir inv mag) s = .next t ∧ t.resp = some ⟨false, data⟩ ∧
      data.toNat = (t.block.motor.get ch).duty.toNat ∧
      (mag < 0 → data.toNat = 0) ∧
      ((Config.maxIntensity : Int) < mag → data.toNat = Config.maxIntensity) ∧
      (0 ≤ mag → mag ≤ Config.maxIntensity → (data.toNat : Int) = mag) ∧
      ((t.block.motor.get ch).in1 = true ↔ ((dir = .rev) ↔ (inv = true))) ∧
      ((t.block.motor.get ch).in2 = true ↔ ¬((dir = .rev) ↔ (inv = true)))

/-- 41_motor.md R123: the direction mapping, row by row. -/
def Obligations.DriveDirectionTable : Prop :=
  ∀ (ch : Channel) (mag : Int) (s : State),
    ∃ t0 t1 t2 t3, exec (.drive ch .fwd false mag) s = .next t0 ∧ exec (.drive ch .fwd true mag) s = .next t1 ∧
      exec (.drive ch .rev false mag) s = .next t2 ∧ exec (.drive ch .rev true mag) s = .next t3 ∧
      ((t0.block.motor.get ch).in1 = true ∧ (t0.block.motor.get ch).in2 = false) ∧
      ((t1.block.motor.get ch).in1 = false ∧ (t1.block.motor.get ch).in2 = true) ∧
      ((t2.block.motor.get ch).in1 = false ∧ (t2.block.motor.get ch).in2 = true) ∧
      ((t3.block.motor.get ch).in1 = true ∧ (t3.block.motor.get ch).in2 = false)

/-- 41_motor.md R124: DRIVE with MAG ≤ 0 sets the direction outputs as R122 does with duty 0, and so differs from STOP,
which deasserts both. -/
def Obligations.ZeroDriveIsNotStop : Prop :=
  ∀ (ch : Channel) (dir : Dir) (inv : Bool) (mag : Int) (s : State), mag ≤ 0 →
    ∃ t u, exec (.drive ch dir inv mag) s = .next t ∧ exec (.stop ch) s = .next u ∧
      t.block.motor.get ch = ⟨!(decide (dir = .rev) ^^ inv), decide (dir = .rev) ^^ inv, 0⟩ ∧
      u.block.motor.get ch = ⟨false, false, 0⟩ ∧
      t.block.motor.get ch ≠ u.block.motor.get ch

/-- 41_motor.md R126: STOP deasserts both direction outputs of its channel, sets its intensity to 0, answers (0, 0) and
changes nothing else. -/
def Obligations.StopDeassertsItsChannel : Prop :=
  ∀ (ch : Channel) (s : State),
    exec (.stop ch) s =
      .next { s with
        block := { s.block with motor := s.block.motor.set ch { in1 := false, in2 := false, duty := 0 } }
        resp := some ⟨false, 0⟩ }

/-- 42_servo.md R140, R141: SERVO_SET sets the angle clamped to [0, 180], enables the output, echoes the applied angle,
and changes nothing else. -/
def Obligations.ServoSetClampsAngle : Prop :=
  ∀ (angle : Int) (s : State),
    exec (.servoSet angle) s =
      .next { s with
        block := { s.block with servoAngle := BitVec.ofInt 8 (max 0 (min angle 180)), servoEn := true }
        resp := some ⟨false, BitVec.ofInt 32 (max 0 (min angle 180))⟩ }

/-- 43_debounce.md R163: one poll in state Stable(v), with sample r, row by row, and that a poll changes nothing but
the debouncer and the response. -/
def Obligations.PollFollowsStateMachine : Prop :=
  ∀ (s : State), ∃ (stable : Bool) (since : BitVec Config.timeW) (data : Word),
    exec .debPoll s =
      .next { s with
        block := { s.block with debStable := stable, debLast := s.swRaw, debSince := since }
        resp := some ⟨false, data⟩ } ∧
    (s.swRaw = s.block.debStable → s.swRaw = s.block.debLast →
      since = s.block.debSince ∧ stable = s.block.debStable ∧ data.extractLsb' 1 31 = 0) ∧
    (s.swRaw = s.block.debStable → s.swRaw ≠ s.block.debLast →
      since = s.block.time ∧ stable = s.block.debStable ∧ data.extractLsb' 1 31 = 0) ∧
    (s.swRaw ≠ s.block.debStable → s.swRaw ≠ s.block.debLast →
      since = s.block.time ∧ stable = s.block.debStable ∧ data.extractLsb' 1 31 = 0) ∧
    (s.swRaw ≠ s.block.debStable → s.swRaw = s.block.debLast →
      (s.block.time - s.block.debSince).toNat < Config.debounceW →
      since = s.block.debSince ∧ stable = s.block.debStable ∧ data.extractLsb' 1 31 = 0) ∧
    (s.swRaw ≠ s.block.debStable → s.swRaw = s.block.debLast →
      Config.debounceW ≤ (s.block.time - s.block.debSince).toNat →
      since = s.block.debSince ∧ stable = s.swRaw ∧
        data.extractLsb' 1 31 = (if s.swRaw then 2#31 else 1#31)) ∧
    data.getLsbD 0 = stable

/-- 43_debounce.md R170: DEB_CLEAR returns the debouncer to its reset state, takes the time as the candidate's start,
answers (0, 0) without an event, and changes nothing else. -/
def Obligations.DebClearReturnsToReleased : Prop :=
  ∀ s : State,
    exec .debClear s =
      .next { s with
        block := { s.block with debStable := true, debLast := true, debSince := s.block.time }
        resp := some ⟨false, 0⟩ }

/-- 44_interface.md R182: RDREG of each assigned index answers the register and writes no state; an unassigned index is
the error BAD_REG. -/
def Obligations.RdregReadsRegisterMap : Prop :=
  ∀ s : State, ∃ d0 d1 d2 d3 d4 d5 d6 : Word,
    exec (.rdreg 0) s = .next { s with resp := some ⟨false, d0⟩ } ∧
    exec (.rdreg 1) s = .next { s with resp := some ⟨false, d1⟩ } ∧
    exec (.rdreg 2) s = .next { s with resp := some ⟨false, d2⟩ } ∧
    exec (.rdreg 3) s = .next { s with resp := some ⟨false, d3⟩ } ∧
    exec (.rdreg 4) s = .next { s with resp := some ⟨false, d4⟩ } ∧
    exec (.rdreg 5) s = .next { s with resp := some ⟨false, d5⟩ } ∧
    exec (.rdreg 6) s = .next { s with resp := some ⟨false, d6⟩ } ∧
    (∀ i, 7 ≤ i → exec (.rdreg i) s = .next { s with resp := some ⟨true, 4⟩ }) ∧
    d0.toNat = s.block.debStable.toNat + 2 * s.block.debLast.toNat + 4 * s.block.servoEn.toNat ∧
    d1.toInt = s.block.snap.a.toInt ∧
    d2.toInt = s.block.snap.b.toInt ∧
    d3.toNat = s.block.motor.a.duty.toNat + 2 ^ 16 * s.block.motor.a.in1.toNat +
      2 ^ 17 * s.block.motor.a.in2.toNat ∧
    d4.toNat = s.block.motor.b.duty.toNat + 2 ^ 16 * s.block.motor.b.in1.toNat +
      2 ^ 17 * s.block.motor.b.in2.toNat ∧
    d5.toNat = s.block.servoAngle.toNat ∧
    d6.toNat = s.block.time.toNat

/-- 20_memory.md R56: with no step of another agent between, issuing one of the listed commands twice gives the same
state and response as issuing it once; DEB_POLL is not idempotent. -/
def Obligations.RepeatedCommandsAreHarmless : Prop :=
  (∀ (i : Instr) (s t : State), i ≠ .debPoll → exec i s = .next t → exec i t = .next t) ∧
  (∃ s t u : State, exec .debPoll s = .next t ∧ exec .debPoll t = .next u ∧ t ≠ u)

/-- 10_state.md R40: no response and no output port reads a live counter, and none but a poll's response reads
`deb_since`. Two states that differ in those fields alone give the same responses and the same ports. -/
def Obligations.CountersAndCandidateStartAreHidden : Prop :=
  ∀ (i : Instr) (s t u : State) (cnt : Pair (BitVec Config.countW)) (since : BitVec Config.timeW),
    exec i s = .next t →
    (∀ sel, i ≠ .encSnap sel) → (i = .debPoll → since = s.block.debSince) →
    exec i { s with block := { s.block with cnt := cnt, debSince := since } } = .next u →
    t.resp = u.resp ∧ ports t = ports u ∧ t.block.snap = u.block.snap

/-! ### The environment's steps -/

/-- 40_counter.md R100, R105: `EncEdge(c)` adds one to the counter of channel c, wrapping at the greatest count to the
least, and changes nothing else. That it leaves the A-phase level `State.phaseA` as it was too is the model's choice
(log entry 6). -/
def Obligations.EdgeAddsOneAndWraps : Prop :=
  (∀ (s : State) (c : Channel) (rest : List Event), s.schedule = .encEdge c :: rest →
    ∃ x : BitVec Config.countW,
      step s = .next { s with
        block := { s.block with cnt := s.block.cnt.set c x }, schedule := rest, resp := none } ∧
      x.toInt = (if (s.block.cnt.get c).toInt = 2 ^ (Config.countW - 1) - 1 then -2 ^ (Config.countW - 1)
        else (s.block.cnt.get c).toInt + 1)) ∧
  (∀ (n : Nat) (x y : BitVec n), 2 ≤ n → countUp .wrap x = some y →
    y.toInt = (if x.toInt = 2 ^ (n - 1) - 1 then -2 ^ (n - 1) else x.toInt + 1))

/-- 40_counter.md R101: a transition of an A-phase input is one `EncEdge` of its channel exactly when EDGE_MODE selects
it: rising 0→1, falling 1→0, both every transition. The pin form of the event is the model's choice (log entry 6). -/
def Obligations.EdgeModeSelectsTransitions : Prop :=
  ∀ (s : State) (c : Channel) (v : Bool) (rest : List Event), s.schedule = .phaseA c v :: rest →
    ∃ t, step s = .next t ∧ t.phaseA = s.phaseA.set c v ∧
      t.block = { s.block with cnt := s.block.cnt.set c (
        if (s.phaseA.get c ≠ v) ∧ (Config.edgeMode = .both ∨ (Config.edgeMode = .rising ∧ v = true) ∨
            (Config.edgeMode = .falling ∧ v = false))
        then s.block.cnt.get c + 1 else s.block.cnt.get c) }

/-- 10_state.md R38, 00_scope.md R9: a B-phase input is sampled by nothing. Two states that differ in their B-phase
levels alone take the same step to states that differ in those alone. -/
def Obligations.PhaseBAffectsNothing : Prop :=
  (∀ (s : State) (c : Channel) (v : Bool) (rest : List Event), s.schedule = .phaseB c v :: rest →
    step s = .next { s with phaseB := s.phaseB.set c v, schedule := rest, resp := none }) ∧
  (∀ (s t : State) (p : Pair Bool), step s = .next t →
    ∃ q, step { s with phaseB := p } = .next { t with phaseB := q })

/-- 93_implementation_defined.md I4: of a burst of k ≥ 1 edges closer than MIN_EDGE_INTERVAL the counter gains some
number in 1..k, and nothing else of the block changes. The number is a free value (log entry 7). -/
def Obligations.BurstGainsBetweenOneAndAll : Prop :=
  ∀ (s : State) (c : Channel) (k : Nat) (rest : List Event), s.schedule = .encBurst c k :: rest → 1 ≤ k →
    ∃ (t : State) (g : Nat), step s = .next t ∧ 1 ≤ g ∧ g ≤ k ∧
      t.block = { s.block with cnt := s.block.cnt.set c (s.block.cnt.get c + BitVec.ofNat Config.countW g) }

/-- 43_debounce.md R160: `Tick` adds one to the time base modulo 2^TIME_W and changes nothing else. -/
def Obligations.TickAdvancesTime : Prop :=
  ∀ (s : State) (rest : List Event), s.schedule = .tick :: rest →
    ∃ x : BitVec Config.timeW,
      step s = .next { s with block := { s.block with time := x }, schedule := rest, resp := none } ∧
      x.toNat = (s.block.time.toNat + 1) % 2 ^ Config.timeW

/-- 43_debounce.md R161, 10_state.md R31: `SwitchLevel(v)` sets the raw level and no block state. -/
def Obligations.SwitchLevelSetsRawLevel : Prop :=
  ∀ (s : State) (v : Bool) (rest : List Event), s.schedule = .switchLevel v :: rest →
    step s = .next { s with swRaw := v, schedule := rest, resp := none }

/-- 70_reset_and_hazards.md R230, 10_state.md R31, R41: `Reset` sets every field of the block to its reset value in one
step, produces no response and leaves the raw switch level; the state right after power-on has the same block. That
`Reset` leaves the A-phase and B-phase levels too is the model's choice (log entry 6). -/
def Obligations.ResetRestoresReleasedStopped : Prop :=
  (∀ (s : State) (rest : List Event), s.schedule = .reset :: rest →
    ∃ t, step s = .next t ∧ t.resp = none ∧ t.swRaw = s.swRaw ∧ t.phaseA = s.phaseA ∧ t.phaseB = s.phaseB ∧
      t.schedule = rest ∧ t.block = State.reset.block) ∧
  State.reset.block =
    { cnt := ⟨0, 0⟩, snap := ⟨0, 0⟩,
      motor := ⟨⟨false, false, 0⟩, ⟨false, false, 0⟩⟩,
      servoAngle := 0, servoEn := false,
      debStable := true, debLast := true, debSince := 0, time := 0 }

/-! ### Order and atomicity -/

/-- 60_exceptions.md R211: two edges of different channels commute, and two edges of the same channel both count. -/
def Obligations.EdgesCommuteAndBothCount : Prop :=
  (∀ (s t : State) (c d : Channel) (rest : List Event),
    Sys2Proof.core.run 2 { s with schedule := .encEdge c :: .encEdge d :: rest } = .next t →
    Sys2Proof.core.run 2 { s with schedule := .encEdge d :: .encEdge c :: rest } = .next t) ∧
  (∀ (s : State) (c : Channel) (rest : List Event), s.schedule = .encEdge c :: .encEdge c :: rest →
    ∃ t : State, Sys2Proof.core.run 2 s = .next t ∧ t.block.cnt.get c = s.block.cnt.get c + 2)

/-- 20_memory.md R61: an edge concurrent with a snapshot is either included in it or not, and counted either way; an
edge concurrent with a reset of its counter is cleared by it or counted after it, be the reset an ENC_RESET
(40_counter.md R102) or the `Reset` step (70_reset_and_hazards.md R231). -/
def Obligations.ConcurrentEdgeFallsOnEitherSide : Prop :=
  ∀ (s : State) (c : Channel) (sel : Sel) (rest : List Event), selects sel c = true →
    (∃ t : State, Sys2Proof.core.run 2
        { s with schedule := .encEdge c :: .command (encode (.encSnap sel)) :: rest } = .next t ∧
      t.block.cnt.get c = s.block.cnt.get c + 1 ∧ t.block.snap.get c = s.block.cnt.get c + 1) ∧
    (∃ t : State, Sys2Proof.core.run 2
        { s with schedule := .command (encode (.encSnap sel)) :: .encEdge c :: rest } = .next t ∧
      t.block.cnt.get c = s.block.cnt.get c + 1 ∧ t.block.snap.get c = s.block.cnt.get c) ∧
    (∃ t : State, Sys2Proof.core.run 2
        { s with schedule := .encEdge c :: .command (encode (.encReset sel)) :: rest } = .next t ∧
      t.block.cnt.get c = 0) ∧
    (∃ t : State, Sys2Proof.core.run 2
        { s with schedule := .command (encode (.encReset sel)) :: .encEdge c :: rest } = .next t ∧
      t.block.cnt.get c = 1) ∧
    (∃ t : State, Sys2Proof.core.run 2 { s with schedule := .encEdge c :: .reset :: rest } = .next t ∧
      t.block.cnt.get c = 0) ∧
    (∃ t : State, Sys2Proof.core.run 2 { s with schedule := .reset :: .encEdge c :: rest } = .next t ∧
      t.block.cnt.get c = 1)

/-- 40_counter.md R107: a snapshot after a reset of channel c holds wrap_COUNT_W of the number of edges of c that the
total order places between the two, whatever else stands between them. Bursts faster than MIN_EDGE_INTERVAL are
excluded (70_reset_and_hazards.md R234), and a partial word is no step. Which pin events count as edges, in a schedule
that has them, rests on the A-phase level that `Event.levelAfter` follows, the model's choice (log entry 6). -/
def Obligations.SnapshotCountsEdgesExactly : Prop :=
  ∀ (s : State) (c : Channel) (first last : Event) (mid rest : List Event),
    s.schedule = first :: (mid ++ last :: rest) → first.isStep = true → first.clears c = true →
    last.snapshots c = true →
    (∀ e ∈ mid, e.isStep = true ∧ e.spacedFor c = true ∧ e.clears c = false) →
    ∃ t : State, Sys2Proof.core.run (mid.length + 2) s = .next t ∧
      (t.block.snap.get c).toInt = Int.bmod (edgesIn c (s.phaseA.get c) mid) (2 ^ Config.countW)

/-- 40_counter.md R106: while fewer than 2^(COUNT_W−1) edges of channel c have come since its reset, no step makes its
count smaller. Which pin events count as edges in that bound rests on the A-phase level that `Event.levelAfter` follows,
the model's choice (log entry 6). -/
def Obligations.CountsAreMonotoneBetweenResets : Prop :=
  ∀ (s : State) (c : Channel) (es rest : List Event) (e : Event),
    s.schedule = es ++ e :: rest → s.block.cnt.get c = 0 →
    (∀ x ∈ es ++ [e], x.isStep = true ∧ x.spacedFor c = true ∧ x.clears c = false) →
    edgesIn c (s.phaseA.get c) (es ++ [e]) < 2 ^ (Config.countW - 1) →
    ∃ t u : State, Sys2Proof.core.run es.length s = .next t ∧ step t = .next u ∧
      (t.block.cnt.get c).toInt ≤ (u.block.cnt.get c).toInt

/-! ### Invariants -/

/-- 41_motor.md R129, 10_state.md R23 to R26: every step keeps the outputs safe. The clause on the angle of the servo pulse
under way rests on the model's frame event (log entry 13). -/
def Obligations.EveryStepKeepsOutputsSafe : Prop :=
  ∀ s t : State, s.Safe → step s = .next t → t.Safe

/-- 41_motor.md R129, 10_state.md R41: the outputs are safe right after reset. -/
def Obligations.OutputsSafeAtReset : Prop := State.reset.Safe

/-! ### The debouncer over many steps -/

/-- 43_debounce.md R164: a poll that reports an event is in the last row of R163, which changes the stable value. A
later poll that sees the same raw value, with the stable value as that poll left it, changes and reports nothing; with
the last sample as that poll left it, it is in the first row. -/
def Obligations.OneEventPerTransition : Prop :=
  ∀ (s t u v : State) (r q : Response), exec .debPoll s = .next t → t.resp = some r →
    (reportsFall r = true ∨ reportsRise r = true) →
    u.block.debStable = t.block.debStable → u.swRaw = s.swRaw → exec .debPoll u = .next v → v.resp = some q →
    s.swRaw ≠ s.block.debStable ∧ s.swRaw = s.block.debLast ∧
      Config.debounceW ≤ (s.block.time - s.block.debSince).toNat ∧ t.block.debStable = s.swRaw ∧
      reportsFall q = false ∧ reportsRise q = false ∧ v.block.debStable = u.block.debStable ∧
      u.swRaw = u.block.debStable ∧ (u.block.debLast = t.block.debLast → u.swRaw = u.block.debLast)

/-- 43_debounce.md R167: a candidate that has persisted exactly DEBOUNCE_W ticks is promoted, falling when the sample
is 0. -/
def Obligations.WindowBoundaryIsInclusive : Prop :=
  ∀ s : State, s.swRaw = s.block.debLast → s.swRaw ≠ s.block.debStable →
    (s.block.time - s.block.debSince).toNat = Config.debounceW →
    ∃ t : State, exec .debPoll s = .next t ∧ t.block.debStable = s.swRaw ∧
      t.resp = some ⟨false, if s.swRaw then 5 else 2⟩

/-- 43_debounce.md R165: take the poll that first sees a new raw level r, and any run of steps after it whose polls
all sample r again. If fewer than DEBOUNCE_W ticks pass in it, it reports no event and the stable value stays. Edges,
other commands and level changes between polls may stand anywhere in the run. -/
def Obligations.ShortGlitchReportsNothing : Prop :=
  ∀ (s : State) (first : Event) (run rest : List Event),
    s.schedule = first :: (run ++ rest) → first.instr = some .debPoll →
    s.swRaw ≠ s.block.debStable → s.swRaw ≠ s.block.debLast →
    (∀ e ∈ run, e.isStep = true) → pollsSample s.swRaw s.swRaw run = true → ticksIn run < Config.debounceW →
    ∃ t : State, Sys2Proof.core.run (run.length + 1) s = .next t ∧
      eventCount reportsFall (run.length + 1) s = 0 ∧ eventCount reportsRise (run.length + 1) s = 0 ∧
      t.block.debStable = s.block.debStable

/-- 43_debounce.md R166: a raw level r held from the poll that first sees it, with polls fewer than
2^TIME_W − DEBOUNCE_W ticks apart. Over any run of steps that holds it, exactly one event is reported if some poll of
the run comes DEBOUNCE_W or more ticks after the first, falling if r = 0 and rising if r = 1, and the stable value is
then r; otherwise none is. Taken at each prefix of a run, this says that the event comes at the first such poll and
that no further one follows. -/
def Obligations.HeldChangeReportsOnce : Prop :=
  ∀ (s : State) (first : Event) (run rest : List Event),
    s.schedule = first :: (run ++ rest) → first.instr = some .debPoll →
    s.swRaw ≠ s.block.debStable → s.swRaw ≠ s.block.debLast →
    (∀ e ∈ run, e.isStep = true ∧ e.holdsSwitch s.swRaw = true) →
    pollsInTime (2 ^ Config.timeW - Config.debounceW) 0 run = true →
    ∃ t : State, Sys2Proof.core.run (run.length + 1) s = .next t ∧
      eventCount reportsFall (run.length + 1) s =
        (if pollDue Config.debounceW 0 run = true ∧ s.swRaw = false then 1 else 0) ∧
      eventCount reportsRise (run.length + 1) s =
        (if pollDue Config.debounceW 0 run = true ∧ s.swRaw = true then 1 else 0) ∧
      t.block.debStable = (if pollDue Config.debounceW 0 run = true then s.swRaw else s.block.debStable)

/-! ### Ports, assembler, parameters -/

/-- 10_state.md R34, R36, 41_motor.md R128: the motor pins and SW_STABLE follow their registers, duty 0 holds the PWM
pin low and duty MAX_INTENSITY holds it high. -/
def Obligations.PortsFollowRegisters : Prop :=
  ∀ (s : State) (c : Channel),
    ((ports s).motor.get c).in1 = (s.block.motor.get c).in1 ∧
    ((ports s).motor.get c).in2 = (s.block.motor.get c).in2 ∧
    ((ports s).motor.get c).high * Config.maxIntensity = (s.block.motor.get c).duty.toNat ∧
    ((s.block.motor.get c).duty = 0 → ((ports s).motor.get c).high = 0) ∧
    ((s.block.motor.get c).duty.toNat = Config.maxIntensity → ((ports s).motor.get c).high = 1) ∧
    (ports s).swStable = s.block.debStable

/-- 42_servo.md R143: while disabled the servo pin emits no pulse; a frame's pulse has the width of the angle commanded
when the frame begins; a change of angle leaves the pulse under way as it is. The frame as an event of its own is the
model's choice (log entry 13). -/
def Obligations.ServoPulseChangesAtFrames : Prop :=
  (∀ s : State, s.block.servoEn = false → (ports s).servoPwm = none) ∧
  (∀ (s : State) (rest : List Event), s.schedule = .servoFrame :: rest → s.block.servoEn = true →
    ∃ t, step s = .next t ∧ t.block = s.block ∧ (ports t).servoPwm =
      some (Config.servoMinPulse +
        (s.block.servoAngle.toNat : Rat) * (Config.servoMaxPulse - Config.servoMinPulse) / 180)) ∧
  (∀ (s : State) (angle : Int), s.block.servoEn = true →
    ∃ t, exec (.servoSet angle) s = .next t ∧ (ports t).servoPwm = (ports s).servoPwm)

/-- 30_encoding.md R94, R95 (informative): with no step of another agent between them, the commands of `ENC:READ` report
both live counters of one instant, and those of a `MA:..,MB:..,S:..` message echo the applied values.
`HostRepliesAdmitOtherSteps` says the same with steps of other agents between. -/
def Obligations.HostMessagesReportAppliedValues : Prop :=
  ∀ (s : State),
    (∃ rs t, runInstrs Message.encRead.commands s = some (rs, t) ∧
      Message.encRead.reply rs = some (.counts s.block.cnt.a.toInt s.block.cnt.b.toInt)) ∧
    (∀ a b angle : Int, ∃ rs t, runInstrs (Message.move a b angle).commands s = some (rs, t) ∧
      (Message.move a b angle).reply rs = some (.applied (max 0 (min a Config.maxIntensity))
        (max 0 (min (Config.ratioFn b) Config.maxIntensity)) (max 0 (min angle 180))))

/-- 30_encoding.md R87: saturating a host integer to 16 bits before the block's clamp changes nothing. -/
def Obligations.HostSaturationIsExact : Prop :=
  ∀ v : Int, appliedMagnitude Config.maxIntensity (sat16 v) = appliedMagnitude Config.maxIntensity v ∧
    appliedAngle (sat16 v) = appliedAngle v

/-- 30_encoding.md R85, R86: every command an accepted assembler line stands for is well-formed and its words decode to
those commands in order; a command line stands for its command and is refused where MAG, ANGLE or IDX is out of range;
DRIVES turns the sign into DIR and refuses the one intensity whose magnitude has no encoding; STOP_ALL is STOP A then
STOP B; ENC_READ is ENC_SNAP ALL, RDREG SNAP_A, RDREG SNAP_B; SAT16 clamps to 16 bits; `.word` is its word unchecked. -/
def Obligations.AssemblerRefusesOutOfRange : Prop :=
  (∀ (l : AsmLine) (ws : List Word), (∀ n, l ≠ .word n) → assembleLine l = some ws →
    (∀ i ∈ expandLine l, i.wellFormed = true) ∧
      ws.map decode = (expandLine l).map (fun i => Except.ok i)) ∧
  (∀ (ch : Channel) (inv : Bool) (v : Int),
    ((assembleLine (.drives ch v inv)).isSome = true ↔ -32767 ≤ v ∧ v ≤ 32767) ∧
    (0 ≤ v → v ≤ 32767 → assembleLine (.drives ch v inv) = some [encode (.drive ch .fwd inv v)]) ∧
    (-32767 ≤ v → v < 0 → assembleLine (.drives ch v inv) = some [encode (.drive ch .rev inv (-v))])) ∧
  assembleLine .stopAll = some [encode (.stop .a), encode (.stop .b)] ∧
  assembleLine .encRead = some [encode (.encSnap .all), encode (.rdreg 1), encode (.rdreg 2)] ∧
  (∀ i : Instr, assembleLine (.instr i) = if i.wellFormed then some [encode i] else none) ∧
  (∀ (ch : Channel) (dir : Dir) (inv : Bool) (v : Int),
    (assembleLine (.instr (.drive ch dir inv v))).isSome = true ↔ -32768 ≤ v ∧ v ≤ 32767) ∧
  (∀ v : Int, (assembleLine (.instr (.servoSet v))).isSome = true ↔ -32768 ≤ v ∧ v ≤ 32767) ∧
  (∀ n : Nat, (assembleLine (.instr (.rdreg n))).isSome = true ↔ n ≤ 255) ∧
  (∀ v : Int, sat16 v = max (-32768) (min v 32767)) ∧
  (∀ w : Word, assembleLine (.word w.toNat) = some [w])

/-- 00_scope.md R10: the parameters meet their constraints. -/
def Obligations.ParametersMeetConstraints : Prop :=
  2 ≤ Config.countW ∧ Config.countW ≤ 32 ∧ 2 ≤ Config.timeW ∧ Config.timeW ≤ 32 ∧
  1 ≤ Config.maxIntensity ∧ Config.maxIntensity ≤ 32767 ∧
  1 ≤ Config.debounceW ∧ Config.debounceW < 2 ^ (Config.timeW - 1) ∧
  Config.minAngle ≤ Config.maxAngle ∧ Config.maxAngle ≤ 180 ∧ Config.neutralAngle ≤ 180 ∧
  0 < Config.minEdgeInterval ∧ 0 < Config.tickPeriod ∧ 0 < Config.pwmFreq ∧
  Config.servoMinPulse < Config.servoMaxPulse ∧ Config.servoMaxPulse < Config.servoPeriod

/-- 30_encoding.md R94, R95 (informative): the replies of `ENC:READ` and `MA:..,MB:..,S:..` do not depend on steps of
other agents between the three commands. Any such steps but `Reset` may stand between those of `ENC:READ`, edges in
particular, and the reply carries the counters of the ENC_SNAP step; any at all between those of a move, and the reply
carries the applied values. -/
def Obligations.HostRepliesAdmitOtherSteps : Prop :=
  ∀ (s : State) (mid₁ mid₂ rest : List Event), (∀ e ∈ mid₁ ++ mid₂, e.isStep = true ∧ e.word = none) →
    (Message.encRead.commands = [.encSnap .all, .rdreg 1, .rdreg 2] ∧
      ((∀ e ∈ mid₁ ++ mid₂, e ≠ .reset) →
        s.schedule = .command (encode (.encSnap .all)) ::
          (mid₁ ++ .command (encode (.rdreg 1)) :: (mid₂ ++ .command (encode (.rdreg 2)) :: rest)) →
        Message.encRead.reply (responses (mid₁.length + mid₂.length + 3) s) =
          some (.counts s.block.cnt.a.toInt s.block.cnt.b.toInt))) ∧
    (∀ a b angle : Int,
      (Message.move a b angle).commands =
        [.drive .a .fwd true (sat16 a), .drive .b .fwd false (sat16 (Config.ratioFn b)), .servoSet (sat16 angle)] ∧
      (s.schedule = .command (encode (.drive .a .fwd true (sat16 a))) ::
          (mid₁ ++ .command (encode (.drive .b .fwd false (sat16 (Config.ratioFn b)))) ::
            (mid₂ ++ .command (encode (.servoSet (sat16 angle))) :: rest)) →
        (Message.move a b angle).reply (responses (mid₁.length + mid₂.length + 3) s) =
          some (.applied (max 0 (min a Config.maxIntensity)) (max 0 (min (Config.ratioFn b) Config.maxIntensity))
            (max 0 (min angle 180)))))
end

