-- ==== Sys2Proof/Laws/Config.lean ====
section
/-! SUPPORT. The bounds of the parameters the step reads (00_scope.md R10), which are all a proof may know of them. -/

namespace Sys2Proof.Config

theorem maxIntensity_pos : 1 ≤ maxIntensity := Nat.le_add_right 1 _

theorem maxIntensity_le : maxIntensity ≤ 32767 := by
  have := Nat.mod_lt maxIntensityFree (show 32767 > 0 by decide)
  unfold maxIntensity
  omega

theorem debounceW_pos : 1 ≤ debounceW := Nat.le_add_right 1 _

theorem debounceW_lt : debounceW < 2 ^ (timeW - 1) := by
  have := Nat.mod_lt debounceFree (show 2 ^ (timeW - 1) - 1 > 0 by decide)
  unfold debounceW
  omega

theorem positive_pos (r : Rat) : 0 < positive r := by
  unfold positive
  split
  · assumption
  · decide

end Sys2Proof.Config
end

