-- ==== Sys2Proof/Laws/Decode.lean ====
section
/-! SUPPORT. The bits of a word built from fields, and the operand fields read back from one. -/

namespace Sys2Proof

theorem getLsbD_field {n : Nat} (lo : Nat) (v : BitVec n) (k : Nat) :
    (field lo v).getLsbD k = (decide (k < 32) && decide (lo ≤ k) && v.getLsbD (k - lo)) := by
  by_cases h : k < 32 <;> by_cases h' : lo ≤ k <;>
    simp [field, BitVec.getLsbD_shiftLeft, BitVec.getLsbD_setWidth, h, h']

/-- A signed operand in the 16-bit range is read back from its 16 bits (30_encoding.md R76, R77). -/
theorem toInt_ofInt_16 {v : Int} (h : inSigned16 v = true) : (BitVec.ofInt 16 v).toInt = v := by
  simp only [inSigned16, Bool.and_eq_true, decide_eq_true_eq] at h
  rw [BitVec.toInt_ofInt]
  exact Int.bmod_eq_of_le (by norm_num; omega) (by norm_num; omega)

/-- An index in the 8-bit range is read back from its 8 bits (30_encoding.md R78). -/
theorem toNat_ofNat_8 {v : Nat} (h : inUnsigned8 v = true) : (BitVec.ofNat 8 v).toNat = v := by
  simp only [inUnsigned8, decide_eq_true_eq] at h
  rw [BitVec.toNat_ofNat]
  omega

/-- The low bits of a disjunction whose other part starts above them. -/
theorem extractLsb'_or_field {n : Nat} (hi v : Word) (low : BitVec n) (hn : n ≤ 32) (h : v = hi ||| field 0 low)
    (hz : ∀ k < n, hi.getLsbD k = false) : v.extractLsb' 0 n = low := by
  subst h
  apply BitVec.eq_of_getLsbD_eq
  intro k hk
  rw [BitVec.getLsbD_extractLsb', Nat.zero_add, BitVec.getLsbD_or, hz k hk, getLsbD_field]
  simp [hk, show k < 32 by omega]

end Sys2Proof
end

