-- ==== Sys2Proof/Laws/State.lean ====
section
/-! SUPPORT. The small lemmas of the state: per-channel registers, and each field after each update. -/

namespace Sys2Proof.Machine

section Pair
variable {α : Type}

@[simp] theorem Pair.get_a (p : Pair α) : p.get .a = p.a := rfl
@[simp] theorem Pair.get_b (p : Pair α) : p.get .b = p.b := rfl
@[simp] theorem Pair.set_a (p : Pair α) (v : α) : p.set .a v = ⟨v, p.b⟩ := rfl
@[simp] theorem Pair.set_b (p : Pair α) (v : α) : p.set .b v = ⟨p.a, v⟩ := rfl

@[simp] theorem Pair.get_set_same (p : Pair α) (c : Channel) (v : α) : (p.set c v).get c = v := by
  cases c <;> rfl

theorem Pair.get_set_ne (p : Pair α) {c d : Channel} (h : c ≠ d) (v : α) : (p.set c v).get d = p.get d := by
  cases c <;> cases d <;> first | rfl | exact absurd rfl h

theorem Pair.get_set (p : Pair α) (c d : Channel) (v : α) :
    (p.set c v).get d = if c = d then v else p.get d := by
  cases c <;> cases d <;> rfl

@[simp] theorem Pair.set_get (p : Pair α) (c : Channel) : p.set c (p.get c) = p := by cases c <;> rfl

@[simp] theorem Pair.set_set (p : Pair α) (c : Channel) (v w : α) : (p.set c v).set c w = p.set c w := by
  cases c <;> rfl

theorem Pair.set_comm (p : Pair α) {c d : Channel} (h : c ≠ d) (v w : α) :
    (p.set c v).set d w = (p.set d w).set c v := by
  cases c <;> cases d <;> first | rfl | exact absurd rfl h

theorem Pair.get_setSel (p q : Pair α) (sel : Sel) (c : Channel) :
    (p.setSel sel q).get c = if selects sel c then q.get c else p.get c := by
  cases c <;> rfl

@[simp] theorem Pair.setSel_setSel (p q : Pair α) (sel : Sel) :
    (p.setSel sel q).setSel sel q = p.setSel sel q := by
  cases sel <;> rfl

end Pair

section Block
variable (s : State) (b : Block Config.countW Config.timeW)

@[simp] theorem State.withBlock_block : (s.withBlock b).block = b := rfl
@[simp] theorem State.withBlock_swRaw : (s.withBlock b).swRaw = s.swRaw := rfl
@[simp] theorem State.withBlock_phaseA : (s.withBlock b).phaseA = s.phaseA := rfl
@[simp] theorem State.withBlock_phaseB : (s.withBlock b).phaseB = s.phaseB := rfl
@[simp] theorem State.withBlock_frameAngle : (s.withBlock b).frameAngle = s.frameAngle := rfl
@[simp] theorem State.withBlock_resp : (s.withBlock b).resp = s.resp := rfl
@[simp] theorem State.withBlock_schedule : (s.withBlock b).schedule = s.schedule := rfl
@[simp] theorem State.withBlock_draws : (s.withBlock b).draws = s.draws := rfl

end Block

@[simp] theorem resetStep_block (s : State) : (resetStep s).block = Block.reset _ _ := rfl
@[simp] theorem resetStep_swRaw (s : State) : (resetStep s).swRaw = s.swRaw := rfl
@[simp] theorem resetStep_phaseA (s : State) : (resetStep s).phaseA = s.phaseA := rfl
@[simp] theorem resetStep_phaseB (s : State) : (resetStep s).phaseB = s.phaseB := rfl
@[simp] theorem resetStep_frameAngle (s : State) : (resetStep s).frameAngle = none := rfl
@[simp] theorem resetStep_resp (s : State) : (resetStep s).resp = none := rfl
@[simp] theorem resetStep_schedule (s : State) : (resetStep s).schedule = s.schedule := rfl
@[simp] theorem resetStep_draws (s : State) : (resetStep s).draws = s.draws := rfl

end Sys2Proof.Machine
end

