-- ==== Sys2Proof/Laws/Ops.lean ====
section
/-! SUPPORT. One lemma for each shared operation and each command, saying once everything it can do. -/

namespace Sys2Proof.Machine

/-! ### Answering -/

theorem respond_next {err : Bool} {data : Word} {s t : State} :
    respond err data s = .next t ↔ t = { s with resp := some ⟨err, data⟩ } := by
  simp only [respond, Host.Outcome.next.injEq]
  exact eq_comm

theorem raiseError_next {e : ErrorCode} {s t : State} :
    raiseError e s = .next t ↔ t = { s with resp := some ⟨true, errorData e⟩ } := respond_next

/-! ### Operands -/

theorem clamp_eq_max_min {x lo hi : Int} (h : lo ≤ hi) : clamp x lo hi = max lo (min x hi) := by
  unfold clamp
  split <;> [skip; split] <;> omega

theorem clamp_bounds {x lo hi : Int} (h : lo ≤ hi) : lo ≤ clamp x lo hi ∧ clamp x lo hi ≤ hi := by
  rw [clamp_eq_max_min h]
  omega

theorem appliedMagnitude_bounds (m : Nat) (mag : Int) :
    0 ≤ appliedMagnitude m mag ∧ appliedMagnitude m mag ≤ m := clamp_bounds (by omega)

theorem appliedAngle_bounds (angle : Int) : 0 ≤ appliedAngle angle ∧ appliedAngle angle ≤ 180 :=
  clamp_bounds (by decide)

/-- A clamped operand survives its register: an integer below the modulus is read back from the bits. -/
theorem toNat_ofInt_of_lt {n : Nat} {x : Int} (h0 : 0 ≤ x) (h1 : x < 2 ^ n) :
    ((BitVec.ofInt n x).toNat : Int) = x := by
  rw [BitVec.toNat_ofInt, Int.toNat_of_nonneg (Int.emod_nonneg _ (by positivity))]
  exact Int.emod_eq_of_lt h0 (by exact_mod_cast h1)

theorem drivenMotor_duty (m : Nat) (hm : m ≤ 32767) (dir : Dir) (inv : Bool) (mag : Int) :
    ((drivenMotor m dir inv mag).duty.toNat : Int) = appliedMagnitude m mag := by
  have h := appliedMagnitude_bounds m mag
  exact toNat_ofInt_of_lt h.1 (by norm_num; omega)

/-! ### Edges -/

/-- The edges a step counts, under the block's policy: the counter of one channel grows, and nothing else changes. -/
theorem countEdges_wrap {cw tw : Nat} (c : Channel) (k : Nat) (b : Block cw tw) :
    countEdges .wrap c k b = some { b with cnt := b.cnt.set c (b.cnt.get c + BitVec.ofNat cw k) } := by
  induction k generalizing b with
  | zero => simp [countEdges]
  | succ k ih =>
    simp only [countEdges, countEdge, countUp, Option.map_some, Option.bind_some, ih, Pair.set_set,
      Pair.get_set_same, Option.some.injEq]
    congr 2
    rw [show BitVec.ofNat cw (k + 1) = BitVec.ofNat cw k + 1#cw from by simp [BitVec.ofNat_add],
      BitVec.add_assoc, BitVec.add_comm (1 : BitVec cw)]
    rfl

theorem applyEdges_eq (c : Channel) (k : Nat) (s : State) :
    applyEdges c k s = .next { s with block := { s.block with
      cnt := s.block.cnt.set c (s.block.cnt.get c + BitVec.ofNat Config.countW k) } } := by
  simp [applyEdges, Config.overflowPolicy, countEdges_wrap, State.withBlock]

theorem burstGain_bounds (draw : Nat) {k : Nat} (h : 1 ≤ k) : 1 ≤ burstGain draw k ∧ burstGain draw k ≤ k := by
  have := Nat.mod_lt (Config.mergedEdges draw) (show k > 0 from h)
  unfold burstGain
  split <;> omega

/-! ### Commands -/

theorem regRead_eq_none {cw tw : Nat} (b : Block cw tw) {i : Nat} (h : 7 ≤ i) : regRead i b = none := by
  match i, h with
  | i + 7, _ => rfl

/-- Every command answers: the next state has some response, and everything outside the block and the response stays
(44_interface.md R180). -/
theorem exec_answers (i : Instr) (s : State) :
    ∃ (b : Block Config.countW Config.timeW) (r : Response),
      exec i s = .next { s with block := b, resp := some r } := by
  cases i with
  | rdreg idx =>
    cases h : regRead idx s.block with
    | some w => exact ⟨s.block, ⟨false, w⟩, by simp [exec, execRdreg, h, respond]⟩
    | none => exact ⟨s.block, ⟨true, 4⟩, by simp [exec, execRdreg, h, raiseError, respond, errorData]⟩
  | _ => exact ⟨_, _, rfl⟩

end Sys2Proof.Machine
end

