-- ==== Sys2Proof/Laws/PerInstr.lean ====
section
/-! SUPPORT. The family CanonicalWord, stated of each constructor of Instr: the encoding carries the command's opcode in
its top bits and passes the match and mask test of 30_encoding.md R72. -/

namespace Sys2Proof.Laws.CanonicalWord

/-- The opcode of a command (30_encoding.md R71). -/
def opcode : Instr → Nat
  | .nop => 0
  | .encReset _ => 1
  | .encSnap _ => 2
  | .drive _ _ _ _ => 3
  | .stop _ => 4
  | .servoSet _ => 5
  | .debPoll => 6
  | .debClear => 7
  | .rdreg _ => 8

def Statement (i : Instr) : Prop :=
  opOf (encode i) = opcode i ∧ encode i &&& maskOf (opcode i) = matchOf (opcode i)

/-- An operand in the low bits is invisible to a test that looks above it. -/
theorem or_field_and {n : Nat} (hi mask : Word) (low : BitVec n) (hz : ∀ k < n, mask.getLsbD k = false) :
    (hi ||| field 0 low) &&& mask = hi &&& mask := by
  apply BitVec.eq_of_getLsbD_eq
  intro k hk
  by_cases h : k < n
  · simp [hz k h]
  · simp [getLsbD_field, BitVec.getLsbD_of_ge low k (by omega)]

/-- The opcode does not see an operand of at most 28 bits. -/
theorem opOf_or_field {n : Nat} (hi : Word) (low : BitVec n) (hn : n ≤ 28) :
    opOf (hi ||| field 0 low) = opOf hi := by
  unfold opOf
  congr 1
  apply BitVec.eq_of_getLsbD_eq
  intro k hk
  simp [getLsbD_field, BitVec.getLsbD_of_ge low (28 + k) (by omega)]

theorem nop : Statement .nop := ⟨by decide, by decide⟩

theorem encReset (sel : Sel) : Statement (.encReset sel) := by cases sel <;> exact ⟨by decide, by decide⟩

theorem encSnap (sel : Sel) : Statement (.encSnap sel) := by cases sel <;> exact ⟨by decide, by decide⟩

theorem drive (ch : Channel) (dir : Dir) (inv : Bool) (mag : Int) : Statement (.drive ch dir inv mag) := by
  refine ⟨(opOf_or_field _ _ (by decide)).trans ?_,
    (or_field_and _ (maskOf 3) _ (by decide)).trans (?_ : _ = matchOf 3)⟩
  · show _ = 3
    cases ch <;> cases dir <;> cases inv <;> decide
  · cases ch <;> cases dir <;> cases inv <;> decide

theorem stop (ch : Channel) : Statement (.stop ch) := by cases ch <;> exact ⟨by decide, by decide⟩

theorem servoSet (angle : Int) : Statement (.servoSet angle) :=
  ⟨(opOf_or_field _ _ (by decide)).trans (show _ = 5 by decide),
    (or_field_and _ (maskOf 5) _ (by decide)).trans (show _ = matchOf 5 by decide)⟩

theorem debPoll : Statement .debPoll := ⟨by decide, by decide⟩

theorem debClear : Statement .debClear := ⟨by decide, by decide⟩

theorem rdreg (idx : Nat) : Statement (.rdreg idx) :=
  ⟨(opOf_or_field _ _ (by decide)).trans (show _ = 8 by decide),
    (or_field_and _ (maskOf 8) _ (by decide)).trans (show _ = matchOf 8 by decide)⟩

/-- Every encoding passes the decoder's tests and is read field by field. -/
theorem decode_encode_eq_fields {i : Instr} (h : Statement i) :
    decode (encode i) = decodeFields (opcode i) (encode i) := by
  have hop : opcode i < 9 := by cases i <;> simp [opcode]
  simp [decode, h.1, h.2, Nat.not_le.mpr hop]

end Sys2Proof.Laws.CanonicalWord
end

