-- ==== Sys2Proof/Laws/Step.lean ====
section
/-! SUPPORT. What one step can do, said once: it runs the head of the schedule, and the block moves as that event's
operation says. -/

namespace Sys2Proof.Machine

theorem step_of_cons {s : State} {e : Event} {rest : List Event} (h : s.schedule = e :: rest) :
    step s = runEvent e { s with schedule := rest, resp := none } := by
  simp [step, takeNext, h]

theorem step_of_nil {s : State} (h : s.schedule = []) : step s = .next { s with resp := none } := by
  simp [step, takeNext, h, idle]

theorem runCommand_ok {w : Word} {i : Instr} (h : decode w = .ok i) (s : State) : runCommand w s = exec i s := by
  simp [runCommand, h]

theorem runCommand_error {w : Word} {e : ErrorCode} (h : decode w = .error e) (s : State) :
    runCommand w s = .next { s with resp := some ⟨true, errorData e⟩ } := by
  simp [runCommand, h, raiseError, respond]

/-- A command step answers, and changes nothing outside the block and the response. -/
theorem runCommand_answers (w : Word) (s : State) :
    ∃ (b : Block Config.countW Config.timeW) (r : Response),
      runCommand w s = .next { s with block := b, resp := some r } := by
  cases h : decode w with
  | ok i => simpa [runCommand_ok h] using exec_answers i s
  | error e => exact ⟨s.block, _, runCommand_error h s⟩

theorem runEvent_encEdge (c : Channel) (s : State) :
    runEvent (.encEdge c) s = .next { s with block := { s.block with
      cnt := s.block.cnt.set c (s.block.cnt.get c + BitVec.ofNat Config.countW 1) } } := applyEdges_eq c 1 s

theorem runEvent_encBurst (c : Channel) (k : Nat) (s : State) :
    runEvent (.encBurst c k) s = .next { s with
      block := { s.block with
        cnt := s.block.cnt.set c (s.block.cnt.get c + BitVec.ofNat Config.countW (burstGain s.draws k)) }
      draws := s.draws + 1 } := applyEdges_eq c _ _

theorem runEvent_phaseA (c : Channel) (v : Bool) (s : State) :
    runEvent (.phaseA c v) s = .next { s with
      block := { s.block with cnt := s.block.cnt.set c (s.block.cnt.get c + BitVec.ofNat Config.countW
        (if edgeSelected Config.edgeMode (s.phaseA.get c) v then 1 else 0)) }
      phaseA := s.phaseA.set c v } := applyEdges_eq c _ _

theorem wordOfBytes_isSome (bytes : List Byte) : (wordOfBytes bytes).isSome = true ↔ bytes.length = 4 := by
  match bytes with
  | [] => simp [wordOfBytes]
  | [_] => simp [wordOfBytes]
  | [_, _] => simp [wordOfBytes]
  | [_, _, _] => simp [wordOfBytes]
  | [_, _, _, _] => simp [wordOfBytes]
  | _ :: _ :: _ :: _ :: _ :: _ => simp [wordOfBytes]

end Sys2Proof.Machine
end

