-- ==== Sys2Proof/Laws/Safety.lean ====
section
/-! SUPPORT. Events by what they present to the block, and runs one step at a time. -/

namespace Sys2Proof.Machine

/-- An event that presents a word runs it. -/
theorem runEvent_of_word {e : Event} {w : Word} (h : e.word = some w) (s : State) :
    runEvent e s = runCommand w s := by
  cases e with
  | command v => cases h; rfl
  | link bytes => simp only [Event.word] at h; simp [runEvent, runLink, h]
  | _ => cases h

theorem Event.word_of_instr {e : Event} {i : Instr} (h : e.instr = some i) :
    ∃ w, e.word = some w ∧ decode w = .ok i := by
  unfold Event.instr at h
  split at h
  · rename_i w hw
    split at h
    · rename_i j hj
      cases h
      exact ⟨w, hw, hj⟩
    · cases h
  · cases h

/-- An event that stands for a command executes it. -/
theorem runEvent_of_instr {e : Event} {i : Instr} (h : e.instr = some i) (s : State) : runEvent e s = exec i s := by
  obtain ⟨w, hw, hd⟩ := Event.word_of_instr h
  rw [runEvent_of_word hw, runCommand_ok hd]

/-- An event that presents a word without a command is answered with an error and changes nothing else. -/
theorem runEvent_of_error {e : Event} {w : Word} (hw : e.word = some w) (h : e.instr = none) (s : State) :
    ∃ data, runEvent e s = .next { s with resp := some ⟨true, data⟩ } := by
  cases hd : decode w with
  | ok i => simp [Event.instr, hw, hd] at h
  | error c => exact ⟨_, by rw [runEvent_of_word hw, runCommand_error hd]⟩

/-- An event that is a step presents a word or is one of the environment's. -/
theorem Event.word_of_isStep {e : Event} (h : e.isStep = true) : e.word.isSome = true ∨ e.instr = none := by
  cases e with
  | command w => exact .inl rfl
  | link bytes => exact .inl ((wordOfBytes_isSome bytes).2 (by simpa [Event.isStep] using h))
  | _ => exact .inr rfl

/-- Every event that is a step of the block has a next state, with the schedule as it was. -/
theorem runEvent_enabled {e : Event} (h : e.isStep = true) (s : State) :
    ∃ t, runEvent e s = .next t ∧ t.schedule = s.schedule := by
  cases hw : e.word with
  | some w =>
    obtain ⟨b, r, hr⟩ := runCommand_answers w s
    exact ⟨_, (runEvent_of_word hw s).trans hr, rfl⟩
  | none =>
    cases e with
    | command w => cases hw
    | link bytes =>
      have := (wordOfBytes_isSome bytes).2 (by simpa [Event.isStep] using h)
      simp only [Event.word] at hw
      simp [hw] at this
    | encEdge c => exact ⟨_, runEvent_encEdge c s, rfl⟩
    | encBurst c k => exact ⟨_, runEvent_encBurst c k s, rfl⟩
    | phaseA c v => exact ⟨_, runEvent_phaseA c v s, rfl⟩
    | _ => exact ⟨_, rfl, rfl⟩

/-- A step of an agent other than the controller: it leaves the schedule and an empty response port as they are, and no
snapshot but `Reset`'s changes. -/
theorem runEvent_environment {e : Event} (h : e.isStep = true) (hw : e.word = none) {s : State} (hr : s.resp = none) :
    ∃ t, runEvent e s = .next t ∧ t.schedule = s.schedule ∧ t.resp = none ∧
      (e ≠ .reset → t.block.snap = s.block.snap) := by
  cases e with
  | command w => cases hw
  | link bytes =>
    have := (wordOfBytes_isSome bytes).2 (by simpa [Event.isStep] using h)
    simp only [Event.word] at hw
    simp [hw] at this
  | encEdge c => exact ⟨_, runEvent_encEdge c s, rfl, hr, fun _ => rfl⟩
  | encBurst c k => exact ⟨_, runEvent_encBurst c k s, rfl, hr, fun _ => rfl⟩
  | phaseA c v => exact ⟨_, runEvent_phaseA c v s, rfl, hr, fun _ => rfl⟩
  | reset => exact ⟨_, rfl, rfl, rfl, fun h => absurd rfl h⟩
  | _ => exact ⟨_, rfl, rfl, hr, fun _ => rfl⟩

theorem run_succ (M : Host.Core) {s t : M.State} (n : Nat) (h : M.step s = .next t) :
    M.run (n + 1) s = M.run n t := by
  rw [Host.Core.run, h]

theorem run_add (M : Host.Core) {s t : M.State} (m n : Nat) (h : M.run m s = .next t) :
    M.run (m + n) s = M.run n t := by
  induction m generalizing s with
  | zero => cases h; rw [Nat.zero_add]
  | succ m ih =>
    rw [Host.Core.run] at h
    rw [Nat.succ_add, Host.Core.run]
    cases hs : M.step s with
    | next s' => rw [hs] at h; exact ih h
    | fault r => rw [hs] at h; cases h
    | refused r => rw [hs] at h; cases h

/-- A run whose first step is known goes on from there. -/
theorem core_run_succ {s t : State} (n : Nat) (h : step s = .next t) :
    Sys2Proof.core.run (n + 1) s = Sys2Proof.core.run n t := run_succ Sys2Proof.core n h

/-- A run whose first m steps are known goes on from there. -/
theorem core_run_add {s t : State} (m n : Nat) (h : Sys2Proof.core.run m s = .next t) :
    Sys2Proof.core.run (m + n) s = Sys2Proof.core.run n t := run_add Sys2Proof.core m n h

end Sys2Proof.Machine
end

