-- ==== Sys2Proof/Tests/Slice0.lean ====
section
/-! SUPPORT. Tests of single steps, their expected values taken from spec/95_test_vectors.md or worked out by hand from
the rule named, and one witness for the hypotheses of each obligation that has any. -/

namespace Sys2Proof.Machine.Tests

open Sys2Proof Sys2Proof.Machine

/-- The next state of an outcome. -/
def nextOf (r : Result) : Option State :=
  match r with
  | .next t => some t
  | .fault _ => none
  | .refused _ => none

/-- The response of an outcome, as in the vectors: (RESP_ERR, RESP_DATA). -/
def respOf (r : Result) : Option (Bool × Word) :=
  (nextOf r).bind fun t => t.resp.map fun x => (x.err, x.data)

/-- The block of an outcome. -/
def blockOf (r : Result) : Option (Block Config.countW Config.timeW) := (nextOf r).map State.block

/-- The reset state with another block. -/
def st (b : Block Config.countW Config.timeW) : State := { State.reset with block := b }

/-- The reset block, whose fields the tests replace. -/
abbrev b0 : Block Config.countW Config.timeW := Block.reset Config.countW Config.timeW

/-- A debouncer state (stable, last, since) at a time, with a raw level (section 2.4 of the vectors). -/
def deb (stable last : Bool) (since time : BitVec 32) (raw : Bool) : State :=
  { st { b0 with debStable := stable, debLast := last, debSince := since, time := time } with swRaw := raw }

/-- The debouncer after an outcome. -/
def debOf (r : Result) : Option (Bool × Bool × BitVec 32) :=
  (blockOf r).map fun b => (b.debStable, b.debLast, b.debSince)

/-- The reset state with one event scheduled. -/
def sched (es : List Event) : State := { State.reset with schedule := es }

/-! ### Well-formedness: each check refuses an ill-formed term (30_encoding.md R76 to R78, R85) -/

theorem test_wf_mag_high : (Instr.drive .a .fwd false 32768).wellFormed = false := by decide
theorem test_wf_mag_low : (Instr.drive .a .fwd false (-32769)).wellFormed = false := by decide
theorem test_wf_angle_high : (Instr.servoSet 32768).wellFormed = false := by decide
theorem test_wf_angle_low : (Instr.servoSet (-32769)).wellFormed = false := by decide
theorem test_wf_idx : (Instr.rdreg 256).wellFormed = false := by decide
theorem test_wf_bounds : (Instr.drive .b .rev true (-32768)).wellFormed = true ∧
    (Instr.servoSet 32767).wellFormed = true ∧ (Instr.rdreg 255).wellFormed = true := by decide

/-! ### Decoding: words written out bit by bit from 30_encoding.md R71 -/

theorem test_decode_nop : decode 0b00000000000000000000000000000000#32 = .ok .nop := by rfl
theorem test_decode_encReset : decode 0b00010100000000000000000000000000#32 = .ok (.encReset .a) := by rfl
theorem test_decode_encReset_b : decode 0b00011000000000000000000000000000#32 = .ok (.encReset .b) := by rfl
theorem test_decode_encSnap : decode 0b00101000000000000000000000000000#32 = .ok (.encSnap .b) := by rfl
theorem test_decode_encSnap_all : decode 0b00101100000000000000000000000000#32 = .ok (.encSnap .all) := by rfl
theorem test_decode_drive : decode 0b00110010000000000000000001100100#32 = .ok (.drive .a .fwd true 100) := by rfl
theorem test_decode_drive_neg :
    decode 0b00111100000000001111111111111111#32 = .ok (.drive .b .rev false (-1)) := by rfl
theorem test_decode_stop : decode 0b01001000000000000000000000000000#32 = .ok (.stop .b) := by rfl
theorem test_decode_servoSet : decode 0b01010000000000001000000000000000#32 = .ok (.servoSet (-32768)) := by rfl
theorem test_decode_debPoll : decode 0b01100000000000000000000000000000#32 = .ok .debPoll := by rfl
theorem test_decode_debClear : decode 0b01110000000000000000000000000000#32 = .ok .debClear := by rfl
theorem test_decode_rdreg : decode 0b10000000000000000000000010000001#32 = .ok (.rdreg 129) := by rfl

/-- CT-16, CT-17. -/
theorem test_decode_reserved_sel : decode 0x10000000#32 = .error .reservedSel ∧
    decode 0x20000000#32 = .error .reservedSel := ⟨rfl, rfl⟩
/-- CT-18, CT-19, MO-15, MO-16, SV-9, DB-9, IF-2, IF-11, IF-12. -/
theorem test_decode_reserved_bits :
    ([0x1C000001#32, 0x1E000000#32, 0x30010064#32, 0x44000000#32, 0x50010000#32, 0x60000001#32, 0x00000001#32,
      0x80000107#32, 0x10000001#32].all fun w => decide (respOf (runCommand w State.reset) = some (true, 2))) =
      true := by decide
/-- IF-3, IF-4. -/
theorem test_decode_illegal :
    ([0x90000000#32, 0xF0000000#32, 0xFFFFFFFF#32, 0xA5A5A5A5#32].all fun w =>
      decide (respOf (runCommand w State.reset) = some (true, 1))) = true := by decide
/-- IF-9, IF-10. -/
theorem test_decode_bad_reg : respOf (runCommand 0x80000007#32 State.reset) = some (true, 4) ∧
    respOf (runCommand 0x800000FF#32 State.reset) = some (true, 4) := by decide

/-- 30_encoding.md R71: the encoder, against the vectors MO-4 and SV-7. -/
theorem test_encode : encode (.drive .a .rev true 100) = 0x36000064#32 ∧
    encode (.servoSet (-10)) = 0x5000FFF6#32 := by decide

/-- 20_memory.md R52: the bytes of 0x32000064 on a byte-wide link, least significant first. -/
theorem test_link_order : wordOfBytes [0x64, 0x00, 0x00, 0x32] = some 0x32000064#32 := by decide

theorem test_tableWord : decodeTableWord 32 0x1C000000 = some (.encReset .all) ∧
    decodeTableWord 32 0x90000000 = none := by decide

theorem test_withFetchWord :
    respOf (step (State.reset.withFetchWord 32 0x5000005A)) = some (false, 0x5A) := by decide

/-! ### Counters -/

/-- CT-3. -/
theorem test_edge_wraps : (blockOf (step { st { b0 with cnt := ⟨0x7FFFFFFF, 0⟩ } with
    schedule := [.encEdge .a] })).map (fun b => b.cnt.a.toInt) = some (-2147483648) := by decide
/-- CT-5, at COUNT_W = 16. -/
theorem test_edge_wraps_16 : ((countUp .wrap 32767#16).map BitVec.toInt = some (-32768)) ∧
    regRead 1 { Block.reset 16 32 with snap := ⟨0x8000#16, 0⟩ } = some 0xFFFF8000#32 := by decide
/-- CT-15: a reset of the counters keeps the snapshots. -/
theorem test_encReset : (blockOf (exec (.encReset .all) (st { b0 with cnt := ⟨8, 8⟩, snap := ⟨5, -3⟩ }))).map
    (fun b => (b.cnt, b.snap)) = some (⟨0, 0⟩, ⟨5, -3⟩) := by decide
/-- CT-6. -/
theorem test_encReset_a : (blockOf (exec (.encReset .a) (st { b0 with cnt := ⟨7, 9⟩ }))).map Block.cnt =
    some ⟨0, 9⟩ := by decide
/-- CT-9. -/
theorem test_encSnap : (blockOf (exec (.encSnap .all) (st { b0 with cnt := ⟨5, -3⟩ }))).map
    (fun b => (b.cnt, b.snap)) = some (⟨5, -3⟩, ⟨5, -3⟩) := by decide
/-- CT-12. -/
theorem test_encSnap_b : (blockOf (exec (.encSnap .b) (st { b0 with cnt := ⟨5, 6⟩ }))).map Block.snap =
    some ⟨0, 6⟩ := by decide

/-! ### Motors, at the vectors' MAX_INTENSITY of 255 -/

/-- MO-5. -/
theorem test_drive_clamps : (blockOf (driveWith 255 .b .fwd false 300 State.reset)).map (fun b => b.motor.b) =
    some ⟨true, false, 255⟩ := by decide
/-- MO-4 and MO-8: a double reversal is forward, and a negative magnitude does not reverse. -/
theorem test_drive_direction :
    (blockOf (driveWith 255 .a .rev true 100 State.reset)).map (fun b => b.motor.a) = some ⟨true, false, 100⟩ ∧
    (blockOf (driveWith 255 .b .fwd false (-5) State.reset)).map (fun b => b.motor.b) =
      some ⟨true, false, 0⟩ := by decide
/-- MO-18. -/
theorem test_stop : (blockOf (exec (.stop .a)
    (st { b0 with motor := ⟨⟨false, true, 100⟩, ⟨true, false, 100⟩⟩ }))).map Block.motor =
      some ⟨⟨false, false, 0⟩, ⟨true, false, 100⟩⟩ := by decide

/-! ### Servo -/

/-- SV-4. -/
theorem test_servo_high : (blockOf (exec (.servoSet 181) State.reset)).map (fun b => (b.servoAngle, b.servoEn)) =
    some (180, true) := by decide
/-- SV-6. -/
theorem test_servo_low : (blockOf (exec (.servoSet (-1)) State.reset)).map (fun b => (b.servoAngle, b.servoEn)) =
    some (0, true) := by decide

/-! ### Debouncer, at the vectors' DEBOUNCE_W of 50 -/

/-- DB-3a and DB-3b: the boundary of the window. -/
theorem test_poll_boundary :
    respOf (debPollWith 50 (deb true false 100 149 false)) = some (false, 1) ∧
    respOf (debPollWith 50 (deb true false 100 150 false)) = some (false, 2) ∧
    debOf (debPollWith 50 (deb true false 100 150 false)) = some (false, false, 100) := by decide
/-- DB-5b and DB-8: a rising event, and a candidate across the wrap of the time base. -/
theorem test_poll_rise_and_wrap :
    respOf (debPollWith 50 (deb false true 300 350 true)) = some (false, 5) ∧
    respOf (debPollWith 50 (deb true false 0xFFFFFFF0 0x22 false)) = some (false, 2) := by decide
/-- DB-4b: an abandoned candidate. -/
theorem test_poll_abandons : debOf (debPollWith 50 (deb true false 200 230 true)) = some (true, true, 230) := by
  decide
/-- DB-7a. -/
theorem test_debClear : debOf (exec .debClear (deb false false 7 900 true)) = some (true, true, 900) ∧
    respOf (exec .debClear (deb false false 7 900 true)) = some (false, 0) := by decide
/-- DB-10. -/
theorem test_tick_wraps : (blockOf (step { st { b0 with time := 0xFFFFFFFF } with schedule := [.tick] })).map
    Block.time = some 0 := by decide

/-! ### Interface and reset -/

/-- IF-1. -/
theorem test_nop : respOf (exec .nop State.reset) = some (false, 0) := by decide
/-- IF-7 and IF-14. -/
theorem test_rdreg :
    respOf (exec (.rdreg 4) (st { b0 with motor := ⟨Motor.stopped, ⟨true, false, 100⟩⟩ })) =
      some (false, 0x00010064) ∧
    respOf (exec (.rdreg 0) (st { b0 with debStable := false, servoEn := true })) = some (false, 6) := by decide
/-- IF-8 and CT-10: the time base, and a negative snapshot sign-extended. -/
theorem test_rdreg_values :
    respOf (exec (.rdreg 6) (st { b0 with time := 1234 })) = some (false, 0x4D2) ∧
    respOf (exec (.rdreg 2) (st { b0 with snap := ⟨5, -3⟩ })) = some (false, 0xFFFFFFFD) := by decide
/-- RS-3: the two orders of an edge and a reset. -/
theorem test_reset_and_edge :
    ((nextOf (step (sched [.encEdge .a, .reset]))).bind (fun t => blockOf (step t))).map (fun b => b.cnt.a) =
      some 0 ∧
    ((nextOf (step (sched [.reset, .encEdge .a]))).bind (fun t => blockOf (step t))).map (fun b => b.cnt.a) =
      some 1 := by decide

/-! ### Assembler and host messages -/

/-- MO-1 with a comment and in small letters, and MO-19. -/
theorem test_assemble_drive :
    assembleText "drive a, fwd, inv, 100 ; x".toList = some [0x32000064#32] ∧
    assembleText "DRIVES A, -100, NOINV".toList = some [0x34000064#32] := by decide
/-- 30_encoding.md R86: STOP_ALL and `.word`, and R85: a range refused. -/
theorem test_assemble_more :
    assembleText "STOP_ALL".toList = some [0x40000000#32, 0x48000000#32] ∧
    assembleText ".word 0x1000".toList = some [0x1000#32] ∧
    assembleText "SERVO_SET 40000".toList = none ∧
    assembleText "SERVO_SET SAT16 40000".toList = some [0x50007FFF#32] ∧
    assembleText "SERVO_SET SAT16\t40000".toList = some [0x50007FFF#32] ∧
    assembleText "RDREG TIME".toList = some [0x80000006#32] := by decide
/-- W7: `ENC:READ` with cnt = [12, −3]. -/
theorem test_host_read :
    ((runInstrs Message.encRead.commands (st { b0 with cnt := ⟨12, -3⟩ })).map fun p => Message.encRead.reply p.1) =
      some (some (.counts 12 (-3))) := by decide

/-! ### Witnesses: a concrete state and operands that meet every hypothesis of an obligation -/

theorem test_wit_DecodeOfEncodeIsIdentity : (Instr.drive .b .rev true (-32768)).wellFormed = true ∧
    (Instr.servoSet 32767).wellFormed = true ∧ (Instr.rdreg 255).wellFormed = true := by decide
theorem test_wit_EncodeOfDecodeIsIdentity : decode 0x36000064#32 = .ok (.drive .a .rev true 100) := by rfl
theorem test_wit_IllegalOpcodeAnswered : 9 ≤ (0x90000000#32 |>.extractLsb' 28 4).toNat ∧
    9 ≤ (0xFFFFFFFF#32 |>.extractLsb' 28 4).toNat := by decide
theorem test_wit_ReservedBitAnswered : (0x82000000#32 |>.extractLsb' 28 4).toNat ≤ 8 ∧
    decode 0x80000100#32 = .error .reservedField ∧ decode 0x1C000001#32 = .error .reservedField ∧
    decode 0x22000000#32 = .error .reservedField ∧ decode 0x31000000#32 = .error .reservedField ∧
    decode 0x44000000#32 = .error .reservedField ∧ decode 0x50010000#32 = .error .reservedField ∧
    decode 0x68000000#32 = .error .reservedField ∧ decode 0x80000000#32 ≠ .error .reservedField ∧
    decode 0x10000000#32 ≠ .error .reservedField := ⟨by decide, rfl, rfl, rfl, rfl, rfl, rfl, rfl, nofun, nofun⟩
theorem test_wit_ReservedSelectionAnswered :
    ((0x10000000#32 |>.extractLsb' 28 4).toNat = 1 ∧ (0x10000000#32 |>.extractLsb' 26 2) = 0 ∧
      (0x10000000#32 |>.extractLsb' 0 26) = 0) ∧
    ((0x20000000#32 |>.extractLsb' 28 4).toNat = 2 ∧ (0x20000000#32 |>.extractLsb' 26 2) = 0 ∧
      (0x20000000#32 |>.extractLsb' 0 26) = 0) := by decide
theorem test_wit_UnassignedIndexAnswered : (0x80000007#32 |>.extractLsb' 28 4).toNat = 8 ∧
    (0x80000007#32 |>.extractLsb' 8 20) = 0 ∧ 7 ≤ (0x80000007#32 |>.extractLsb' 0 8).toNat := by decide
theorem test_wit_ErrorResponseChangesNothing : ∃ t,
    runCommand 0xA0000000#32 (st { b0 with servoAngle := 180 }) = .next t ∧ t.resp = some ⟨true, 1⟩ :=
  ⟨_, rfl, rfl⟩
theorem test_wit_StepRunsDecodedCommand :
    ((sched [.command 0x1C000000, .tick]).schedule = .command 0x1C000000 :: [.tick] ∧
      decode 0x1C000000#32 = .ok (.encReset .all)) ∧
    ((sched [.command 0x90000000]).schedule = .command 0x90000000 :: [] ∧
      decode 0x90000000#32 = .error .illegalOp) ∧
    decode 0x00000001#32 = .error .reservedField ∧ decode 0x20000000#32 = .error .reservedSel :=
  ⟨⟨rfl, rfl⟩, ⟨rfl, rfl⟩, rfl, rfl⟩
theorem test_wit_LinkCarriesWordsLittleEndian :
    (0x32000064#32).toNat = (0x64#8).toNat + 2 ^ 8 * (0x00#8).toNat + 2 ^ 16 * (0x00#8).toNat +
      2 ^ 24 * (0x32#8).toNat ∧
    (sched [.link [0x64, 0x00, 0x00, 0x32]]).schedule = .link [0x64, 0x00, 0x00, 0x32] :: [] := by decide
theorem test_wit_PartialWordRefused : (sched [.link [1, 2, 3]]).schedule = .link [1, 2, 3] :: [] ∧
    ([1, 2, 3] : List Byte).length ≠ 4 := by decide
theorem test_wit_EveryStepIsEnabled : (sched [.encBurst .a 3]).schedule = .encBurst .a 3 :: [] ∧
    Event.isStep (.encBurst .a 3) = true := by decide
theorem test_wit_EmptyScheduleIdles : (sched []).schedule = [] := rfl
theorem test_wit_OnlyCommandsAreAnswered :
    (sched [.tick]).schedule = .tick :: [] ∧ ∃ t, step (sched [.tick]) = .next t := ⟨rfl, _, rfl⟩

/-- A witness for each clause: a step that does change the field. -/
theorem test_wit_StepWritesOnlyItsFields :
    (∃ t, step (sched [.encEdge .b]) = .next t ∧ t.block.cnt.get .b ≠ (sched [.encEdge .b]).block.cnt.get .b) ∧
    (∃ s t, s.schedule = [.command 0x2C000000] ∧ step s = .next t ∧ t.block.snap.get .a ≠ s.block.snap.get .a) ∧
    (∃ s t, s.schedule = [.command 0x40000000] ∧ step s = .next t ∧ t.block.motor.get .a ≠ s.block.motor.get .a) ∧
    (∃ t, step (sched [.command 0x5000005A]) = .next t ∧
      t.block.servoEn ≠ (sched [.command 0x5000005A]).block.servoEn) ∧
    (∃ s t, s.schedule = [.command 0x70000000] ∧ step s = .next t ∧ t.block.debStable ≠ s.block.debStable) ∧
    (∃ t, step (sched [.tick]) = .next t ∧ t.block.time ≠ (sched [.tick]).block.time) ∧
    (∃ t, step (sched [.switchLevel false]) = .next t ∧ t.swRaw ≠ (sched [.switchLevel false]).swRaw) :=
  ⟨⟨_, rfl, by decide⟩,
   ⟨{ st { b0 with cnt := ⟨5, 6⟩ } with schedule := [.command 0x2C000000] }, _, rfl, rfl, by decide⟩,
   ⟨{ st { b0 with motor := ⟨⟨false, true, 100⟩, ⟨true, false, 100⟩⟩ } with schedule := [.command 0x40000000] },
     _, rfl, rfl, by decide⟩,
   ⟨_, rfl, by decide⟩,
   ⟨{ deb false false 7 900 true with schedule := [.command 0x70000000] }, _, rfl, rfl, by decide⟩,
   ⟨_, rfl, by decide⟩, ⟨_, rfl, by decide⟩⟩

theorem test_wit_NopOnlyAnswers : (0x00000001#32 |>.extractLsb' 28 4).toNat = 0 ∧ 0x00000001#32 ≠ 0 := by decide
/-- The three ranges of MAG at their ends: −1, 0, MAX_INTENSITY and MAX_INTENSITY + 1. -/
theorem test_wit_DriveClampsMagnitude : (-1 : Int) < 0 ∧
    (Config.maxIntensity : Int) < (Config.maxIntensity : Int) + 1 ∧
    ((0 : Int) ≤ 0 ∧ (0 : Int) ≤ Config.maxIntensity) ∧
    ((0 : Int) ≤ Config.maxIntensity ∧ (Config.maxIntensity : Int) ≤ Config.maxIntensity) :=
  ⟨by decide, Int.lt_succ _, ⟨Int.le_refl _, Int.natCast_nonneg _⟩, ⟨Int.natCast_nonneg _, Int.le_refl _⟩⟩
theorem test_wit_ZeroDriveIsNotStop : (0 : Int) ≤ 0 ∧ (-32768 : Int) ≤ 0 := by decide

/-- The time of a candidate first seen at tick 0 that has persisted k ticks. -/
theorem elapsed_ofNat {k : Nat} (h : k < 2 ^ 31) : (BitVec.ofNat 32 k - 0#32).toNat = k := by
  rw [BitVec.sub_zero, BitVec.toNat_ofNat, Nat.mod_eq_of_lt (by omega)]

/-- A candidate low level that has persisted exactly DEBOUNCE_W ticks. -/
def atWindow : State := deb true false 0 (BitVec.ofNat 32 Config.debounceW) false

theorem test_wit_WindowBoundaryIsInclusive : atWindow.swRaw = atWindow.block.debLast ∧
    atWindow.swRaw ≠ atWindow.block.debStable ∧
    (atWindow.block.time - atWindow.block.debSince).toNat = Config.debounceW :=
  ⟨rfl, by decide, elapsed_ofNat Config.debounceW_lt⟩

/-- A witness for each row: (raw, stable, last), and the two window rows at DEBOUNCE_W − 1 and DEBOUNCE_W ticks. -/
theorem test_wit_PollFollowsStateMachine :
    ((deb true true 0 9 true).swRaw = (deb true true 0 9 true).block.debStable ∧
      (deb true true 0 9 true).swRaw = (deb true true 0 9 true).block.debLast) ∧
    ((deb true false 0 9 true).swRaw = (deb true false 0 9 true).block.debStable ∧
      (deb true false 0 9 true).swRaw ≠ (deb true false 0 9 true).block.debLast) ∧
    ((deb true true 0 9 false).swRaw ≠ (deb true true 0 9 false).block.debStable ∧
      (deb true true 0 9 false).swRaw ≠ (deb true true 0 9 false).block.debLast) ∧
    (∃ s, s = deb true false 0 (BitVec.ofNat 32 (Config.debounceW - 1)) false ∧ s.swRaw ≠ s.block.debStable ∧
      s.swRaw = s.block.debLast ∧ (s.block.time - s.block.debSince).toNat < Config.debounceW) ∧
    (atWindow.swRaw ≠ atWindow.block.debStable ∧ atWindow.swRaw = atWindow.block.debLast ∧
      Config.debounceW ≤ (atWindow.block.time - atWindow.block.debSince).toNat) := by
  have h0 := Config.debounceW_pos
  have h1 := Config.debounceW_lt
  refine ⟨by decide, by decide, by decide, ⟨_, rfl, by decide, rfl, ?_⟩,
    ⟨by decide, rfl, (elapsed_ofNat Config.debounceW_lt).ge⟩⟩
  show (BitVec.ofNat 32 (Config.debounceW - 1) - 0#32).toNat < Config.debounceW
  rw [elapsed_ofNat (Nat.lt_of_le_of_lt (Nat.sub_le _ _) h1)]
  omega

theorem test_wit_RdregReadsRegisterMap : 7 ≤ 7 ∧ 7 ≤ 255 := by decide
theorem test_wit_RepeatedCommandsAreHarmless : Instr.encSnap .all ≠ .debPoll ∧
    ∃ t, exec (.encSnap .all) (st { b0 with cnt := ⟨5, 6⟩ }) = .next t := ⟨by decide, _, rfl⟩
theorem test_wit_CountersAndCandidateStartAreHidden :
    (∃ t u, exec .debPoll State.reset = .next t ∧
      (∀ sel, Instr.debPoll ≠ .encSnap sel) ∧ (Instr.debPoll = .debPoll → (0 : BitVec 32) = b0.debSince) ∧
      exec .debPoll { State.reset with block := { b0 with cnt := ⟨5, 6⟩, debSince := 0 } } = .next u) ∧
    (∃ t u, exec (.rdreg 0) State.reset = .next t ∧
      (∀ sel, Instr.rdreg 0 ≠ .encSnap sel) ∧ (Instr.rdreg 0 = .debPoll → (9 : BitVec 32) = b0.debSince) ∧
      exec (.rdreg 0) { State.reset with block := { b0 with cnt := ⟨5, 6⟩, debSince := 9 } } = .next u) :=
  ⟨⟨_, _, rfl, nofun, fun _ => rfl, rfl⟩, ⟨_, _, rfl, nofun, nofun, rfl⟩⟩
theorem test_wit_EdgeAddsOneAndWraps : (sched [.encEdge .a]).schedule = .encEdge .a :: [] ∧
    2 ≤ 2 ∧ countUp .wrap 1#2 = some 2#2 := by decide
theorem test_wit_EdgeModeSelectsTransitions : (sched [.phaseA .a true]).schedule = .phaseA .a true :: [] := rfl
theorem test_wit_PhaseBAffectsNothing : (sched [.phaseB .a true]).schedule = .phaseB .a true :: [] ∧
    ∃ t, step (sched [.phaseB .a true]) = .next t := ⟨rfl, _, rfl⟩
theorem test_wit_BurstGainsBetweenOneAndAll : (sched [.encBurst .b 1]).schedule = .encBurst .b 1 :: [] ∧
    1 ≤ 1 := by decide
theorem test_wit_TickAdvancesTime : (sched [.tick]).schedule = .tick :: [] := rfl
theorem test_wit_SwitchLevelSetsRawLevel : (sched [.switchLevel false]).schedule = .switchLevel false :: [] := rfl
theorem test_wit_ResetRestoresReleasedStopped : (sched [.reset, .tick]).schedule = .reset :: [.tick] := rfl
theorem test_wit_EdgesCommuteAndBothCount :
    (∃ t : State, Sys2Proof.core.run 2 { State.reset with schedule := .encEdge .a :: .encEdge .b :: [] } = .next t) ∧
    (sched [.encEdge .a, .encEdge .a]).schedule = .encEdge .a :: .encEdge .a :: [] := ⟨⟨_, rfl⟩, rfl⟩
theorem test_wit_ConcurrentEdgeFallsOnEitherSide : selects .all .b = true ∧ selects .a .a = true := by decide
/-- A reset of both counters, an edge of each channel, and a snapshot of both. -/
theorem test_wit_SnapshotCountsEdgesExactly :
    (sched [.command 0x1C000000, .encEdge .a, .encBurst .b 2, .command 0x2C000000]).schedule =
      .command 0x1C000000 :: ([.encEdge .a, .encBurst .b 2] ++ .command 0x2C000000 :: []) ∧
    Event.isStep (.command 0x1C000000) = true ∧ Event.clears .a (.command 0x1C000000) = true ∧
    Event.snapshots .a (.command 0x2C000000) = true ∧
    ∀ e ∈ [Event.encEdge .a, .encBurst .b 2],
      e.isStep = true ∧ e.spacedFor .a = true ∧ e.clears .a = false := by decide
theorem test_wit_CountsAreMonotoneBetweenResets :
    (sched [.encEdge .a, .tick]).schedule = [.encEdge .a] ++ .tick :: [] ∧
    (sched [.encEdge .a, .tick]).block.cnt.get .a = 0 ∧
    (∀ x ∈ [Event.encEdge .a] ++ [.tick], x.isStep = true ∧ x.spacedFor .a = true ∧ x.clears .a = false) ∧
    edgesIn .a false ([.encEdge .a] ++ [.tick]) < 2 ^ (Config.countW - 1) := by decide

/-- A state with a driven motor and a servo pulse under way, and a command scheduled. -/
def running : State :=
  { st { b0 with motor := ⟨⟨true, false, 1⟩, Motor.stopped⟩, servoAngle := 90, servoEn := true } with
    frameAngle := some 180, schedule := [.command 0x40000000] }

theorem test_wit_EveryStepKeepsOutputsSafe : running.Safe ∧ ∃ t, step running = .next t := by
  refine ⟨⟨?_, by decide, by decide, ?_⟩, _, rfl⟩
  · intro c
    cases c
    · exact ⟨by decide, Config.maxIntensity_pos⟩
    · exact ⟨by decide, Nat.zero_le _⟩
  · intro a h
    cases h
    decide

/-- The poll at DEBOUNCE_W ticks reports a fall, and the same poll again meets the later premises. -/
theorem test_wit_OneEventPerTransition : ∃ t v : State, ∃ r q : Response,
    exec .debPoll atWindow = .next t ∧ t.resp = some r ∧ (reportsFall r = true ∨ reportsRise r = true) ∧
      t.block.debStable = t.block.debStable ∧ t.swRaw = atWindow.swRaw ∧ exec .debPoll t = .next v ∧
      v.resp = some q := by
  have h : pollPromotes Config.debounceW false atWindow.block = true := by
    have e : pollElapsed false atWindow.block = Config.debounceW := elapsed_ofNat Config.debounceW_lt
    simp only [pollPromotes, e, Nat.le_refl, decide_true, Bool.true_and]
    rfl
  refine ⟨_, _, _, _, rfl, rfl, .inl ?_, rfl, rfl, rfl, rfl⟩
  show (pollData (pollRose Config.debounceW false atWindow.block) (pollFell Config.debounceW false atWindow.block)
    (pollStable Config.debounceW false atWindow.block)).getLsbD 1 = true
  simp only [pollRose, pollFell, pollStable, h, if_true]
  decide

/-- A poll followed by k ticks. -/
def held (k : Nat) (more : List Event) : State :=
  { deb true true 0 0 false with schedule := .command 0x60000000 :: (List.replicate k .tick ++ more) }

theorem ticksIn_replicate (k : Nat) : ticksIn (List.replicate k .tick) = k := by
  simp [ticksIn, List.countP_replicate]

theorem replicate_tick_holds (k : Nat) (r : Bool) :
    ∀ e ∈ List.replicate k Event.tick, e.isStep = true ∧ e.holdsSwitch r = true := by
  intro e h
  rw [List.eq_of_mem_replicate h]
  exact ⟨rfl, rfl⟩

theorem pollsSample_replicate (k : Nat) (r : Bool) : pollsSample r r (List.replicate k .tick) = true := by
  induction k with
  | zero => rfl
  | succ k ih => rw [List.replicate_succ, pollsSample, show Event.rawAfter r .tick = r from rfl, ih]; rfl

/-- The longest glitch: DEBOUNCE_W − 1 ticks. -/
theorem test_wit_ShortGlitchReportsNothing :
    (held (Config.debounceW - 1) []).schedule =
      .command 0x60000000 :: (List.replicate (Config.debounceW - 1) .tick ++ []) ∧
    Event.instr (.command 0x60000000) = some .debPoll ∧
    (held (Config.debounceW - 1) []).swRaw ≠ (held (Config.debounceW - 1) []).block.debStable ∧
    (held (Config.debounceW - 1) []).swRaw ≠ (held (Config.debounceW - 1) []).block.debLast ∧
    (∀ e ∈ List.replicate (Config.debounceW - 1) Event.tick, e.isStep = true) ∧
    pollsSample false false (List.replicate (Config.debounceW - 1) .tick) = true ∧
    ticksIn (List.replicate (Config.debounceW - 1) .tick) < Config.debounceW := by
  refine ⟨rfl, rfl, nofun, nofun, fun e h => (replicate_tick_holds _ false e h).1, pollsSample_replicate _ _, ?_⟩
  rw [ticksIn_replicate]
  exact Nat.sub_lt Config.debounceW_pos Nat.one_pos

/-- 43_debounce.md R165: a level that moves and comes back between two polls is not seen by them. -/
theorem test_pollsSample_between : pollsSample false false
    [.switchLevel true, .switchLevel false, .command 0x60000000] = true ∧
    pollsSample false false [.switchLevel true, .command 0x60000000] = false := by decide

/-- The run of the shortest held change: DEBOUNCE_W ticks and a poll. -/
def heldRun : List Event := List.replicate Config.debounceW .tick ++ [.command 0x60000000]

theorem pollsInTime_replicate (bound k : Nat) : ∀ since, since + k < bound →
    pollsInTime bound since (List.replicate k .tick ++ [.command 0x60000000]) = true := by
  induction k with
  | zero => intro since _; rfl
  | succ k ih =>
    intro since h
    simp only [List.replicate_succ, List.cons_append, pollsInTime, if_true]
    rw [ih (since + 1) (by omega), decide_eq_true (by omega)]
    rfl

theorem pollDue_replicate (window k : Nat) : ∀ since, window ≤ since + k →
    pollDue window since (List.replicate k .tick ++ [.command 0x60000000]) = true := by
  induction k with
  | zero =>
    intro since h
    simpa [pollDue, Event.instr, Event.word, show decode 0x60000000#32 = .ok .debPoll from rfl] using h
  | succ k ih =>
    intro since h
    rw [List.replicate_succ, List.cons_append, pollDue, if_pos rfl, ih (since + 1) (by omega), Bool.or_true]

/-- The shortest held change, whose last poll is due. -/
theorem test_wit_HeldChangeReportsOnce :
    (held Config.debounceW [.command 0x60000000]).schedule = .command 0x60000000 :: (heldRun ++ []) ∧
    Event.instr (.command 0x60000000) = some .debPoll ∧
    (held Config.debounceW [.command 0x60000000]).swRaw ≠
      (held Config.debounceW [.command 0x60000000]).block.debStable ∧
    (held Config.debounceW [.command 0x60000000]).swRaw ≠
      (held Config.debounceW [.command 0x60000000]).block.debLast ∧
    (∀ e ∈ heldRun, e.isStep = true ∧ e.holdsSwitch false = true) ∧
    pollsInTime (2 ^ Config.timeW - Config.debounceW) 0 heldRun = true ∧
    pollDue Config.debounceW 0 heldRun = true := by
  have h := Config.debounceW_lt
  refine ⟨(congrArg _ (List.append_nil _)).symm, rfl, nofun, nofun, ?_, pollsInTime_replicate _ _ _ ?_,
    pollDue_replicate _ _ _ (Nat.zero_add _).ge⟩
  · intro e he
    rcases List.mem_append.1 he with h | h
    · exact replicate_tick_holds _ _ e h
    · rw [List.mem_singleton.1 h]
      exact ⟨rfl, rfl⟩
  · simp only [Config.timeW] at *
    omega

/-- Duty 0, and duty MAX_INTENSITY. -/
theorem test_wit_PortsFollowRegisters : (State.reset.block.motor.get .a).duty = 0 ∧
    ∃ s : State, (s.block.motor.get .b).duty.toNat = Config.maxIntensity := by
  refine ⟨rfl, st { b0 with motor := ⟨Motor.stopped, ⟨true, false, BitVec.ofNat 16 Config.maxIntensity⟩⟩ }, ?_⟩
  show (BitVec.ofNat 16 Config.maxIntensity).toNat = _
  have := Config.maxIntensity_le
  rw [BitVec.toNat_ofNat, Nat.mod_eq_of_lt (by omega)]

theorem test_wit_ServoPulseChangesAtFrames : State.reset.block.servoEn = false ∧
    (∃ s : State, s.schedule = .servoFrame :: [] ∧ s.block.servoEn = true) ∧ running.block.servoEn = true :=
  ⟨rfl, ⟨{ running with schedule := [.servoFrame] }, rfl, rfl⟩, rfl⟩
theorem test_wit_AssemblerRefusesOutOfRange : (∀ n, AsmLine.stopAll ≠ .word n) ∧
    assembleLine .stopAll = some [0x40000000#32, 0x48000000#32] ∧
    ((0 : Int) ≤ 0 ∧ (0 : Int) ≤ 32767) ∧ ((0 : Int) ≤ 32767 ∧ (32767 : Int) ≤ 32767) ∧
    ((-32767 : Int) ≤ -32767 ∧ (-32767 : Int) < 0) ∧ ((-32767 : Int) ≤ -1 ∧ (-1 : Int) < 0) :=
  ⟨nofun, by decide, by decide, by decide, by decide, by decide⟩
/-- An edge and a tick between the commands of `ENC:READ`, and a `Reset` between those of a move. -/
theorem test_wit_HostRepliesAdmitOtherSteps :
    (∀ e ∈ [Event.encEdge .a] ++ [.tick], e.isStep = true ∧ e.word = none ∧ e ≠ .reset) ∧
    (∀ e ∈ [Event.reset] ++ [], e.isStep = true ∧ e.word = none) ∧
    (∃ s : State, s.schedule = .command (encode (.encSnap .all)) ::
      ([.encEdge .a] ++ .command (encode (.rdreg 1)) :: ([.tick] ++ .command (encode (.rdreg 2)) :: []))) ∧
    (∃ s : State, s.schedule = .command (encode (.drive .a .fwd true (sat16 0))) ::
      ([.reset] ++ .command (encode (.drive .b .fwd false (sat16 (Config.ratioFn 0)))) ::
        ([] ++ .command (encode (.servoSet (sat16 0))) :: []))) :=
  ⟨by decide, by decide, ⟨sched _, rfl⟩, ⟨sched _, rfl⟩⟩

end Sys2Proof.Machine.Tests
end

section
/-! The bounds of the caller's angles and of the servo's pulse and period (00_scope.md R10), beside those of the
parameters the step reads. -/

namespace Sys2Proof.Config

theorem minAngle_le_maxAngle : minAngle ≤ maxAngle := Nat.le_add_right _ _

theorem maxAngle_le : maxAngle ≤ 180 := by
  have hmin : minAngle < 181 := Nat.mod_lt _ (by decide)
  have hspan : maxAngleFree % (181 - minAngle) < 181 - minAngle := Nat.mod_lt _ (Nat.sub_pos_of_lt hmin)
  unfold maxAngle
  omega

theorem neutralAngle_le : neutralAngle ≤ 180 := Nat.le_of_lt_succ (Nat.mod_lt _ (by decide))

theorem servoMinPulse_lt_servoMaxPulse : servoMinPulse < servoMaxPulse :=
  lt_add_of_pos_right _ (positive_pos _)

theorem servoMaxPulse_lt_servoPeriod : servoMaxPulse < servoPeriod := lt_add_of_pos_right _ (positive_pos _)

end Sys2Proof.Config
end

section
/-! The obligations of 00_scope.md: every step is enabled, a command word at the head of the schedule is run, an empty
schedule idles, and the parameters meet their constraints. -/

namespace Sys2Proof.Machine

/-- Settles O12: the step runs the head of the schedule, and every event that is a step of the block has a next
state. -/
theorem everyStepIsEnabled : Obligations.EveryStepIsEnabled := by
  intro s e rest hsched hstep
  rw [step_of_cons hsched]
  exact runEvent_enabled hstep _

/-- Settles O9: the step is `runCommand` of the head word, whose two cases are those of the decoder. -/
theorem stepRunsDecodedCommand : Obligations.StepRunsDecodedCommand := by
  intro s w rest hsched
  have hstep : step s = runCommand w { s with schedule := rest, resp := none } := step_of_cons hsched
  refine ⟨hstep, fun i hi => hstep.trans (runCommand_ok hi _), fun e he => ?_⟩
  rw [hstep, runCommand_error he]
  cases e <;> rfl

/-- Settles O13: with an empty schedule the step takes its idle branch. -/
theorem emptyScheduleIdles : Obligations.EmptyScheduleIdles := fun _ hsched => step_of_nil hsched

/-- Settles O52: each OPEN parameter lies in the range onto which its definition maps the free constant. -/
theorem parametersMeetConstraints : Obligations.ParametersMeetConstraints :=
  ⟨by decide, by decide, by decide, by decide,
    Config.maxIntensity_pos, Config.maxIntensity_le, Config.debounceW_pos, Config.debounceW_lt,
    Config.minAngle_le_maxAngle, Config.maxAngle_le, Config.neutralAngle_le,
    Config.positive_pos _, Config.positive_pos _, Config.positive_pos _,
    Config.servoMinPulse_lt_servoMaxPulse, Config.servoMaxPulse_lt_servoPeriod⟩

end Sys2Proof.Machine
end

section
/-! The obligations of 10_state.md: which step may write which field, what no response, port or step reads, and the
ports as functions of their registers. -/

namespace Sys2Proof.Machine

/-! ### Where a channel write can be seen -/

theorem Pair.eq_of_get_set_ne {α : Type} {p : Pair α} {c d : Channel} {v : α} (h : (p.set c v).get d ≠ p.get d) :
    c = d :=
  of_not_not fun hcd => h (p.get_set_ne hcd v)

theorem Pair.selects_of_get_setSel_ne {α : Type} {p q : Pair α} {sel : Sel} {c : Channel}
    (h : (p.setSel sel q).get c ≠ p.get c) : selects sel c = true :=
  of_not_not fun hsel => h (by rw [Pair.get_setSel, if_neg hsel])

/-! ### Events by the registers they are listed for -/

theorem Event.clears_of_instr {e : Event} {sel : Sel} (h : e.instr = some (.encReset sel)) (c : Channel) :
    e.clears c = selects sel c := by
  cases e with
  | reset => cases h
  | _ => simp [Event.clears, h]

theorem Event.snapshots_of_instr {e : Event} {sel : Sel} (h : e.instr = some (.encSnap sel)) (c : Channel) :
    e.snapshots c = selects sel c := by
  simp [Event.snapshots, h]

/-! ### Steps said in one equation -/

/-- RDREG answers the register it reads or BAD_REG, and writes no register. -/
theorem execRdreg_eq_next (idx : Nat) (s : State) :
    execRdreg idx s = .next { s with
      resp := some ((regRead idx s.block).elim ⟨true, errorData .badReg⟩ fun w => ⟨false, w⟩) } := by
  unfold execRdreg
  cases regRead idx s.block with
  | some w => rfl
  | none => rfl

theorem runEvent_link_refused {bytes : List Byte} (hw : (Event.link bytes).word = none) (s : State) :
    runEvent (.link bytes) s = .refused (.notAWord bytes.length) := by
  simp only [Event.word] at hw
  simp only [runEvent, runLink, hw]

/-! ### The access matrix -/

/-- The access matrix of 10_state.md R39: from s to t the event e changed a field only if the matrix lists it there.
The default of each entry is that the step left the field alone, so a proof names only the entries it writes. -/
structure AccessMatrix (e : Event) (s t : State) : Prop where
  cnt : ∀ c, t.block.cnt.get c ≠ s.block.cnt.get c →
    e = .encEdge c ∨ (∃ k, e = .encBurst c k) ∨ (∃ v, e = .phaseA c v) ∨ e.clears c = true := by
    exact fun _ h => (h rfl).elim
  snap : ∀ c, t.block.snap.get c ≠ s.block.snap.get c → e = .reset ∨ e.snapshots c = true := by
    exact fun _ h => (h rfl).elim
  motor : ∀ c, t.block.motor.get c ≠ s.block.motor.get c →
    e = .reset ∨ e.instr = some (.stop c) ∨ ∃ dir inv mag, e.instr = some (.drive c dir inv mag) := by
    exact fun _ h => (h rfl).elim
  servo : t.block.servoAngle ≠ s.block.servoAngle ∨ t.block.servoEn ≠ s.block.servoEn →
    e = .reset ∨ ∃ angle, e.instr = some (.servoSet angle) := by
    exact fun h => (h.elim (· rfl) (· rfl)).elim
  debouncer : t.block.debStable ≠ s.block.debStable ∨ t.block.debLast ≠ s.block.debLast ∨
      t.block.debSince ≠ s.block.debSince →
    e = .reset ∨ e.instr = some .debPoll ∨ e.instr = some .debClear := by
    exact fun h => (h.elim (· rfl) (·.elim (· rfl) (· rfl))).elim
  time : t.block.time ≠ s.block.time → e = .tick ∨ e = .reset := by
    exact fun h => (h rfl).elim
  swRaw : t.swRaw ≠ s.swRaw → ∃ v, e = .switchLevel v := by
    exact fun h => (h rfl).elim

/-- A command writes only the fields its column of the matrix lists. -/
theorem exec_accessMatrix {e : Event} {i : Instr} {s t : State} (hi : e.instr = some i)
    (h : exec i s = .next t) : AccessMatrix e s t := by
  cases i with
  | nop => cases h; exact {}
  | encReset sel =>
    cases h
    exact { cnt := fun c hc => .inr <| .inr <| .inr <|
      (Event.clears_of_instr hi c).trans (Pair.selects_of_get_setSel_ne hc) }
  | encSnap sel =>
    cases h
    exact { snap := fun c hc => .inr <|
      (Event.snapshots_of_instr hi c).trans (Pair.selects_of_get_setSel_ne hc) }
  | drive ch dir inv mag =>
    cases h
    exact { motor := fun c hc => .inr <| .inr ⟨dir, inv, mag, Pair.eq_of_get_set_ne hc ▸ hi⟩ }
  | stop ch =>
    cases h
    exact { motor := fun c hc => .inr <| .inl <| Pair.eq_of_get_set_ne hc ▸ hi }
  | servoSet angle =>
    cases h
    exact { servo := fun _ => .inr ⟨angle, hi⟩ }
  | debPoll =>
    cases h
    exact { debouncer := fun _ => .inr <| .inl hi }
  | debClear =>
    cases h
    exact { debouncer := fun _ => .inr <| .inr hi }
  | rdreg idx =>
    cases (execRdreg_eq_next idx s).symm.trans h
    exact {}

/-- A step of an agent other than the controller writes only the fields its column of the matrix lists. -/
theorem environment_accessMatrix {e : Event} {s t : State} (hw : e.word = none) (h : runEvent e s = .next t) :
    AccessMatrix e s t := by
  cases e with
  | command w => cases hw
  | link bytes =>
    cases (runEvent_link_refused hw s).symm.trans h
  | encEdge d =>
    cases (runEvent_encEdge d s).symm.trans h
    exact { cnt := fun c hc => .inl <| Pair.eq_of_get_set_ne hc ▸ rfl }
  | encBurst d k =>
    cases (runEvent_encBurst d k s).symm.trans h
    exact { cnt := fun c hc => .inr <| .inl ⟨k, Pair.eq_of_get_set_ne hc ▸ rfl⟩ }
  | phaseA d v =>
    cases (runEvent_phaseA d v s).symm.trans h
    exact { cnt := fun c hc => .inr <| .inr <| .inl ⟨v, Pair.eq_of_get_set_ne hc ▸ rfl⟩ }
  | phaseB d v => cases h; exact {}
  | switchLevel v =>
    cases h
    exact { swRaw := fun _ => ⟨v, rfl⟩ }
  | tick =>
    cases h
    exact { time := fun _ => .inl rfl }
  | servoFrame => cases h; exact {}
  | reset =>
    cases h
    exact {
      cnt := fun _ _ => .inr <| .inr <| .inr rfl
      snap := fun _ _ => .inl rfl
      motor := fun _ _ => .inl rfl
      servo := fun _ => .inl rfl
      debouncer := fun _ => .inl rfl
      time := fun _ => .inr rfl }

theorem runEvent_accessMatrix {e : Event} {s t : State} (h : runEvent e s = .next t) : AccessMatrix e s t := by
  cases hw : e.word with
  | none => exact environment_accessMatrix hw h
  | some w =>
    cases hi : e.instr with
    | some i => exact exec_accessMatrix hi ((runEvent_of_instr hi s).symm.trans h)
    | none =>
      obtain ⟨data, hd⟩ := runEvent_of_error hw hi s
      cases hd.symm.trans h
      exact {}

/-- Settles O15: the matrix holds of the event at the head of the schedule, whose start differs from s outside the
matrix's fields only. -/
theorem stepWritesOnlyItsFields : Obligations.StepWritesOnlyItsFields := by
  intro s t e rest hsched hstep
  obtain ⟨hcnt, hsnap, hmotor, hservo, hdeb, htime, hraw⟩ :=
    runEvent_accessMatrix ((step_of_cons hsched).symm.trans hstep)
  exact ⟨hcnt, hsnap, hmotor, hservo, hdeb, htime, hraw⟩

/-! ### Hidden registers -/

/-- No index of the register map reads a live counter or the start of the candidate (20_memory.md R50). -/
theorem regRead_hides_cnt_debSince {cw tw : Nat} (idx : Nat) (b : Block cw tw) (cnt : Pair (BitVec cw))
    (since : BitVec tw) : regRead idx { b with cnt := cnt, debSince := since } = regRead idx b := by
  unfold regRead
  split <;> rfl

/-- Settles O29: no command but ENC_SNAP copies a counter, RDREG reads through the register map, and a poll is given
the start of the candidate unchanged. -/
theorem countersAndCandidateStartAreHidden : Obligations.CountersAndCandidateStartAreHidden := by
  intro i s t u cnt since ht hsnap hpoll hu
  cases i with
  | encSnap sel => exact absurd rfl (hsnap sel)
  | debPoll =>
    obtain rfl := hpoll rfl
    cases ht
    cases hu
    exact ⟨rfl, rfl, rfl⟩
  | rdreg idx =>
    cases (execRdreg_eq_next idx s).symm.trans ht
    cases (execRdreg_eq_next idx _).symm.trans hu
    exact ⟨by simp only [regRead_hides_cnt_debSince], rfl, rfl⟩
  | _ =>
    cases ht
    cases hu
    exact ⟨rfl, rfl, rfl⟩

/-! ### The B-phase levels -/

theorem exec_phaseB_irrelevant {i : Instr} {s t : State} (p : Pair Bool) (h : exec i s = .next t) :
    exec i { s with phaseB := p } = .next { t with phaseB := p } := by
  cases i with
  | rdreg idx =>
    cases (execRdreg_eq_next idx s).symm.trans h
    exact execRdreg_eq_next idx _
  | _ => cases h; rfl

theorem runCommand_phaseB_irrelevant {w : Word} {s t : State} (p : Pair Bool) (h : runCommand w s = .next t) :
    runCommand w { s with phaseB := p } = .next { t with phaseB := p } := by
  cases hd : decode w with
  | ok i =>
    rw [runCommand_ok hd] at h ⊢
    exact exec_phaseB_irrelevant p h
  | error e =>
    rw [runCommand_error hd] at h ⊢
    cases h
    rfl

/-- The levels after the step are the given ones, with the new level in place if the event is a B-phase pin's. -/
theorem runEvent_phaseB_irrelevant {e : Event} {s t : State} (p : Pair Bool) (h : runEvent e s = .next t) :
    ∃ q, runEvent e { s with phaseB := p } = .next { t with phaseB := q } := by
  cases hw : e.word with
  | some w =>
    rw [runEvent_of_word hw] at h ⊢
    exact ⟨p, runCommand_phaseB_irrelevant p h⟩
  | none =>
    cases e with
    | command w => cases hw
    | link bytes =>
      cases (runEvent_link_refused hw s).symm.trans h
    | encEdge c =>
      cases (runEvent_encEdge c s).symm.trans h
      exact ⟨p, runEvent_encEdge c _⟩
    | encBurst c k =>
      cases (runEvent_encBurst c k s).symm.trans h
      exact ⟨p, runEvent_encBurst c k _⟩
    | phaseA c v =>
      cases (runEvent_phaseA c v s).symm.trans h
      exact ⟨p, runEvent_phaseA c v _⟩
    | phaseB c v => cases h; exact ⟨p.set c v, rfl⟩
    | _ => cases h; exact ⟨p, rfl⟩

/-- Settles O32: a B-phase pin event writes its own level, and no event, nor an idle step, reads one. -/
theorem phaseBAffectsNothing : Obligations.PhaseBAffectsNothing := by
  refine ⟨fun s c v rest hsched => step_of_cons hsched, fun s t p h => ?_⟩
  cases hsched : s.schedule with
  | nil =>
    cases (step_of_nil hsched).symm.trans h
    exact ⟨p, by rw [hsched]; exact step_of_nil rfl⟩
  | cons e rest =>
    obtain ⟨q, hq⟩ := runEvent_phaseB_irrelevant p ((step_of_cons hsched).symm.trans h)
    exact ⟨q, (step_of_cons rfl).trans hq⟩

/-! ### The ports -/

theorem ports_motor_get (s : State) (c : Channel) :
    (ports s).motor.get c = motorPort Config.maxIntensity (s.block.motor.get c) := by
  cases c <;> rfl

theorem motorPort_high_mul {m : Nat} (hm : 1 ≤ m) (x : Motor) : (motorPort m x).high * m = x.duty.toNat :=
  div_mul_cancel₀ _ (Nat.cast_ne_zero.2 (Nat.one_le_iff_ne_zero.1 hm))

theorem motorPort_high_of_zero (m : Nat) {x : Motor} (h : x.duty = 0) : (motorPort m x).high = 0 := by
  simp [motorPort, h]

theorem motorPort_high_of_max {m : Nat} (hm : 1 ≤ m) {x : Motor} (h : x.duty.toNat = m) :
    (motorPort m x).high = 1 := by
  simp only [motorPort, h]
  exact div_self (Nat.cast_ne_zero.2 (Nat.one_le_iff_ne_zero.1 hm))

/-- Settles O47: each channel's port is `motorPort` of its registers, and MAX_INTENSITY is not 0. -/
theorem portsFollowRegisters : Obligations.PortsFollowRegisters := by
  intro s c
  rw [ports_motor_get]
  exact ⟨rfl, rfl, motorPort_high_mul Config.maxIntensity_pos _, motorPort_high_of_zero _,
    motorPort_high_of_max Config.maxIntensity_pos, rfl⟩

end Sys2Proof.Machine
end

section
/-! The obligations of 20_memory.md: what a link transfer stands for, which commands may be repeated, and on which side
of a snapshot or a reset a concurrent edge falls. -/

namespace Sys2Proof

/-! ### Words built from fields -/

theorem toNat_field {n lo : Nat} (v : BitVec n) (h : lo + n ≤ 32) : (field lo v).toNat = 2 ^ lo * v.toNat := by
  have hv : 2 ^ lo * v.toNat < 2 ^ 32 := calc
    2 ^ lo * v.toNat < 2 ^ lo * 2 ^ n := Nat.mul_lt_mul_of_pos_left v.isLt (Nat.two_pow_pos lo)
    _ = 2 ^ (lo + n) := (Nat.pow_add 2 lo n).symm
    _ ≤ 2 ^ 32 := Nat.pow_le_pow_right Nat.zero_lt_two h
  rw [field, BitVec.toNat_shiftLeft, BitVec.toNat_setWidth_of_le (by omega), Nat.shiftLeft_eq_mul_pow, Nat.mul_comm,
    Nat.mod_eq_of_lt hv]

/-- A field above a word that ends below it adds its value at its place. -/
theorem toNat_field_or {n lo : Nat} (v : BitVec n) {low : Word} (h : lo + n ≤ 32) (hlow : low.toNat < 2 ^ lo) :
    (field lo v ||| low).toNat = 2 ^ lo * v.toNat + low.toNat := by
  rw [BitVec.toNat_or, toNat_field v h, Nat.two_pow_add_eq_or_of_lt hlow]

/-- Byte 0 of a link transfer is the lowest digit of its word in base 256, and byte 3 the highest (R52). -/
theorem wordOfBytes_eq_some {b0 b1 b2 b3 : Byte} {w : Word}
    (hw : w.toNat = b0.toNat + 2 ^ 8 * b1.toNat + 2 ^ 16 * b2.toNat + 2 ^ 24 * b3.toNat) :
    wordOfBytes [b0, b1, b2, b3] = some w := by
  have h0 : (field 0 b0).toNat = b0.toNat := by rw [toNat_field b0 (by decide), pow_zero, one_mul]
  have h1 : (field 8 b1 ||| field 0 b0).toNat = 2 ^ 8 * b1.toNat + b0.toNat := by
    rw [toNat_field_or b1 (by decide) (by omega), h0]
  have h2 : (field 16 b2 ||| (field 8 b1 ||| field 0 b0)).toNat =
      2 ^ 16 * b2.toNat + (2 ^ 8 * b1.toNat + b0.toNat) := by
    rw [toNat_field_or b2 (by decide) (by omega), h1]
  rw [wordOfBytes, BitVec.or_assoc, BitVec.or_assoc, Option.some_inj]
  apply BitVec.eq_of_toNat_eq
  rw [toNat_field_or b3 (by decide) (by omega), h2, hw]
  omega

end Sys2Proof

namespace Sys2Proof.Machine

/-! ### Link transfers -/

/-- Settles O10: the bytes are the digits of the word, which the transfer's one step then runs. -/
theorem linkCarriesWordsLittleEndian : Obligations.LinkCarriesWordsLittleEndian := by
  intro s b0 b1 b2 b3 rest w hw hsched
  rw [step_of_cons hsched]
  exact runEvent_of_word (e := .link [b0, b1, b2, b3]) (wordOfBytes_eq_some hw) _

/-- Settles O11: only four bytes present a word, and a transfer that presents none is refused. -/
theorem partialWordRefused : Obligations.PartialWordRefused := by
  intro s bytes rest hsched hlen
  have hnone : wordOfBytes bytes = none :=
    Option.not_isSome_iff_eq_none.1 fun hsome => hlen ((wordOfBytes_isSome bytes).1 hsome)
  rw [step_of_cons hsched]
  exact runEvent_link_refused hnone _

/-! ### Repeated commands -/

section Block
variable {cw tw : Nat} (b : Block cw tw)

@[simp] theorem resetCounters_resetCounters (sel : Sel) :
    resetCounters sel (resetCounters sel b) = resetCounters sel b := by
  simp [resetCounters]

@[simp] theorem snapCounters_snapCounters (sel : Sel) :
    snapCounters sel (snapCounters sel b) = snapCounters sel b := by
  simp [snapCounters]

@[simp] theorem setMotor_setMotor (c : Channel) (m : Motor) : setMotor c m (setMotor c m b) = setMotor c m b := by
  simp [setMotor]

/-- A second poll of the same level at the same tick promotes nothing: either the first promoted that level and it is
the stable one now, or the candidate is as old as it was. -/
theorem pollPromotes_pollBlock (window : Nat) (r : Bool) :
    pollPromotes window r (pollBlock window r b) = false := by
  have hel : pollElapsed r (pollBlock window r b) = pollElapsed r b := by
    simp [pollElapsed, pollSince, pollBlock]
  cases hp : pollPromotes window r b with
  | true =>
    have hst : (pollBlock window r b).debStable = r := by simp [pollBlock, pollStable, hp]
    rw [pollPromotes, hst, bne_self_eq_false, Bool.and_false]
  | false =>
    have hst : (pollBlock window r b).debStable = b.debStable := by simp [pollBlock, pollStable, hp]
    rw [← hp, pollPromotes, pollPromotes, hel, hst]

end Block

/-- A command whose data does not depend on the state, and whose effect on the block is idempotent, may be repeated. -/
theorem respond_withBlock_repeat {f : Block Config.countW Config.timeW → Block Config.countW Config.timeW}
    (hf : ∀ b, f (f b) = f b) {err : Bool} {data : Word} {s t : State}
    (h : respond err data (s.withBlock (f s.block)) = .next t) :
    respond err data (t.withBlock (f t.block)) = .next t := by
  cases respond_next.1 h
  simp [respond, State.withBlock, hf]

theorem exec_repeat {i : Instr} {s t : State} (hi : i ≠ .debPoll) (h : exec i s = .next t) : exec i t = .next t := by
  cases i with
  | nop => cases h; rfl
  | encReset sel => exact respond_withBlock_repeat (resetCounters_resetCounters · sel) h
  | encSnap sel => exact respond_withBlock_repeat (snapCounters_snapCounters · sel) h
  | drive ch dir inv mag => exact respond_withBlock_repeat (setMotor_setMotor · ch _) h
  | stop ch => exact respond_withBlock_repeat (setMotor_setMotor · ch _) h
  | servoSet angle => exact respond_withBlock_repeat (f := setServo angle) (fun _ => rfl) h
  | debPoll => exact absurd rfl hi
  | debClear => exact respond_withBlock_repeat (f := clearDebouncer) (fun _ => rfl) h
  | rdreg idx =>
    cases (execRdreg_eq_next idx s).symm.trans h
    exact execRdreg_eq_next idx _

/-- A low level first seen at tick 0 that has persisted DEBOUNCE_W ticks and is not stable yet. -/
def pressDue : State :=
  { State.reset with
    block := { State.reset.block with debLast := false, time := BitVec.ofNat Config.timeW Config.debounceW }
    swRaw := false }

theorem pollPromotes_pressDue : pollPromotes Config.debounceW false pressDue.block = true := by
  have hel : pollElapsed false pressDue.block = Config.debounceW := by
    change (BitVec.ofNat Config.timeW Config.debounceW - 0#Config.timeW).toNat = Config.debounceW
    rw [BitVec.sub_zero, BitVec.toNat_ofNat,
      Nat.mod_eq_of_lt (Config.debounceW_lt.trans (Nat.pow_lt_pow_right Nat.one_lt_two (by decide)))]
  rw [pollPromotes, hel, decide_eq_true le_rfl]
  rfl

/-- The falling event is bit 1 of a poll's data (R162). -/
@[simp] theorem reportsFall_pollData (err rose fell stable : Bool) :
    reportsFall ⟨err, pollData rose fell stable⟩ = fell := by
  simp only [reportsFall, pollData, BitVec.getLsbD_or, getLsbD_field]
  simp

/-- Settles O28: what every other command writes does not depend on what it wrote before, and of two polls of a due
press only the first reports the fall. -/
theorem repeatedCommandsAreHarmless : Obligations.RepeatedCommandsAreHarmless := by
  refine ⟨fun i s t => exec_repeat, pressDue, _, _, rfl, rfl, fun h => ?_⟩
  have hfell : pollFell Config.debounceW false pressDue.block =
      pollFell Config.debounceW false (pollBlock Config.debounceW false pressDue.block) := by
    have hreport := congrArg (·.resp.map reportsFall) h
    simp only [Option.map_some, reportsFall_pollData, Option.some_inj] at hreport
    exact hreport
  rw [pollFell, pollFell, pollPromotes_pressDue, pollPromotes_pollBlock] at hfell
  cases hfell

/-! ### Edges beside snapshots and resets -/

/-- One edge on the block: `EncEdge(c)` under the block's policy (40_counter.md R100). -/
def addEdge {cw tw : Nat} (c : Channel) (b : Block cw tw) : Block cw tw :=
  { b with cnt := b.cnt.set c (b.cnt.get c + 1) }

section Counters
variable {cw tw : Nat} (c : Channel) (b : Block cw tw)

@[simp] theorem addEdge_cnt_get : (addEdge c b).cnt.get c = b.cnt.get c + 1 := Pair.get_set_same _ _ _

@[simp] theorem addEdge_snap : (addEdge c b).snap = b.snap := rfl

@[simp] theorem snapCounters_cnt (sel : Sel) : (snapCounters sel b).cnt = b.cnt := rfl

theorem snapCounters_snap_get {sel : Sel} (h : selects sel c = true) :
    (snapCounters sel b).snap.get c = b.cnt.get c := (Pair.get_setSel _ _ _ _).trans (if_pos h)

theorem resetCounters_cnt_get {sel : Sel} (h : selects sel c = true) : (resetCounters sel b).cnt.get c = 0 := by
  rw [resetCounters, Pair.get_setSel, if_pos h]
  cases c <;> rfl

@[simp] theorem Block.reset_cnt_get (cw tw : Nat) : (Block.reset cw tw).cnt.get c = 0 := by cases c <;> rfl

end Counters

/-- The event has a next state in every state, moves the block by f and takes nothing off the schedule. -/
def Event.Moves (e : Event) (f : Block Config.countW Config.timeW → Block Config.countW Config.timeW) : Prop :=
  ∀ s, ∃ t, runEvent e s = .next t ∧ t.schedule = s.schedule ∧ t.block = f s.block

theorem encEdge_moves (c : Channel) : (Event.encEdge c).Moves (addEdge c) :=
  fun s => ⟨_, runEvent_encEdge c s, rfl, rfl⟩

theorem command_moves {i : Instr} {f : Block Config.countW Config.timeW → Block Config.countW Config.timeW}
    {err : Bool} {data : Word} (hd : decode (encode i) = .ok i)
    (hi : ∀ s, exec i s = respond err data (s.withBlock (f s.block))) : (Event.command (encode i)).Moves f :=
  fun s => ⟨_, (runCommand_ok hd s).trans (hi s), rfl, rfl⟩

theorem encSnap_moves (sel : Sel) : (Event.command (encode (.encSnap sel))).Moves (snapCounters sel) :=
  command_moves (by cases sel <;> rfl) fun _ => rfl

theorem encReset_moves (sel : Sel) : (Event.command (encode (.encReset sel))).Moves (resetCounters sel) :=
  command_moves (by cases sel <;> rfl) fun _ => rfl

theorem reset_moves : Event.reset.Moves fun _ => Block.reset _ _ := fun _ => ⟨_, rfl, rfl, rfl⟩

/-- The run of two scheduled events moves the block by the first event's function and then the second's. -/
theorem core_run_two {e₁ e₂ : Event} {f₁ f₂ : Block Config.countW Config.timeW → Block Config.countW Config.timeW}
    (h₁ : e₁.Moves f₁) (h₂ : e₂.Moves f₂) (s : State) (rest : List Event) :
    ∃ u, Sys2Proof.core.run 2 { s with schedule := e₁ :: e₂ :: rest } = .next u ∧ u.block = f₂ (f₁ s.block) := by
  obtain ⟨t, hrun₁, hsched, hblock₁⟩ := h₁ { s with schedule := e₂ :: rest, resp := none }
  obtain ⟨u, hrun₂, -, hblock₂⟩ := h₂ { t with schedule := rest, resp := none }
  have hstep₁ : step { s with schedule := e₁ :: e₂ :: rest } = .next t := (step_of_cons rfl).trans hrun₁
  have hstep₂ : step t = .next u := (step_of_cons hsched).trans hrun₂
  exact ⟨u, (core_run_succ 1 hstep₁).trans (core_run_succ 0 hstep₂), by rw [hblock₂, hblock₁]⟩

/-- Settles O38: each order moves the block by the two operations in that order, and the rules of the counter and the
snapshot give what the selected channel then holds. -/
theorem concurrentEdgeFallsOnEitherSide : Obligations.ConcurrentEdgeFallsOnEitherSide := by
  intro s c sel rest hsel
  have hedge := encEdge_moves c
  have hsnap := encSnap_moves sel
  have hclear := encReset_moves sel
  refine ⟨?_, ?_, ?_, ?_, ?_, ?_⟩
  · obtain ⟨t, hrun, hblock⟩ := core_run_two hedge hsnap s rest
    exact ⟨t, hrun, by simp [hblock], by simp [hblock, snapCounters_snap_get, hsel]⟩
  · obtain ⟨t, hrun, hblock⟩ := core_run_two hsnap hedge s rest
    exact ⟨t, hrun, by simp [hblock], by simp [hblock, snapCounters_snap_get, hsel]⟩
  · obtain ⟨t, hrun, hblock⟩ := core_run_two hedge hclear s rest
    exact ⟨t, hrun, by rw [hblock, resetCounters_cnt_get c _ hsel]⟩
  · obtain ⟨t, hrun, hblock⟩ := core_run_two hclear hedge s rest
    exact ⟨t, hrun, by rw [hblock, addEdge_cnt_get, resetCounters_cnt_get c _ hsel, zero_add]⟩
  · obtain ⟨t, hrun, hblock⟩ := core_run_two hedge reset_moves s rest
    exact ⟨t, hrun, by rw [hblock, Block.reset_cnt_get]⟩
  · obtain ⟨t, hrun, hblock⟩ := core_run_two reset_moves hedge s rest
    exact ⟨t, hrun, by rw [hblock, addEdge_cnt_get, Block.reset_cnt_get, zero_add]⟩

end Sys2Proof.Machine
end

section
/-! The obligations of 30_encoding.md about words: decoding and encoding are inverse to each other, and which bits of a
word are answered as reserved. -/

namespace Sys2Proof

/-! ### What the decoder answers -/

theorem decode_eq_ok {w : Word} {i : Instr} :
    decode w = .ok i ↔
      opOf w < 9 ∧ w &&& maskOf (opOf w) = matchOf (opOf w) ∧ decodeFields (opOf w) w = .ok i := by
  simp only [decode]
  split_ifs with hop hmask
  · simp [hop]
  · simp [hmask]
  · simp [not_le.1 hop, not_not.1 hmask]

theorem decodeFields_ne_reservedField (op : Nat) (w : Word) : decodeFields op w ≠ .error .reservedField := by
  match op with
  | 0 | 3 | 4 | 5 | 6 | 7 | 8 => nofun
  | 1 | 2 => cases h : selOf w <;> simp [decodeFields, h]
  | _ + 9 => nofun

theorem decode_eq_reservedField {w : Word} (hop : opOf w < 9) :
    decode w = .error .reservedField ↔ w &&& maskOf (opOf w) ≠ matchOf (opOf w) := by
  simp only [decode]
  split_ifs with hle hmask
  · exact absurd hle (not_le.2 hop)
  · simp [hmask]
  · simp [not_not.1 hmask, decodeFields_ne_reservedField]

/-! ### Fields of a word -/

/-- The bits of a field, cut out and put back in their place, are the word under the field's mask. -/
theorem field_extractLsb' (lo n : Nat) (w : Word) :
    field lo (w.extractLsb' lo n) = w &&& field lo (BitVec.allOnes n) := by
  apply BitVec.eq_of_getLsbD_eq
  intro k hk
  rw [BitVec.getLsbD_and, getLsbD_field, getLsbD_field, BitVec.getLsbD_extractLsb', BitVec.getLsbD_allOnes]
  by_cases hlo : lo ≤ k
  · simp [hk, hlo, Bool.and_comm]
  · simp [hlo]

/-- An operand in the low bits is invisible above them. -/
theorem getLsbD_or_field {n : Nat} (hi : Word) (low : BitVec n) {k : Nat} (hk : n ≤ k) :
    (hi ||| field 0 low).getLsbD k = hi.getLsbD k := by
  simp [getLsbD_field, BitVec.getLsbD_of_ge low k hk]

/-- A word that passes a match and mask test is its match value and the bits the mask leaves open. -/
theorem eq_or_and_not_of_and_eq {w mask value : Word} (h : w &&& mask = value) : w = value ||| (w &&& ~~~mask) := by
  rw [← h, ← BitVec.and_or_distrib_left, BitVec.or_not_self, BitVec.and_allOnes]

/-! ### Decoding an encoding -/

theorem canonicalWord (i : Instr) : Laws.CanonicalWord.Statement i := by
  cases i with
  | nop => exact Laws.CanonicalWord.nop
  | encReset sel => exact Laws.CanonicalWord.encReset sel
  | encSnap sel => exact Laws.CanonicalWord.encSnap sel
  | drive ch dir inv mag => exact Laws.CanonicalWord.drive ch dir inv mag
  | stop ch => exact Laws.CanonicalWord.stop ch
  | servoSet angle => exact Laws.CanonicalWord.servoSet angle
  | debPoll => exact Laws.CanonicalWord.debPoll
  | debClear => exact Laws.CanonicalWord.debClear
  | rdreg idx => exact Laws.CanonicalWord.rdreg idx

/-- A 16-bit operand below other fields is read back. -/
theorem signed16Of_or_field {hi : Word} {v : Int} (hz : ∀ k < 16, hi.getLsbD k = false) (hv : inSigned16 v = true) :
    signed16Of (hi ||| field 0 (BitVec.ofInt 16 v)) = v := by
  rw [signed16Of, extractLsb'_or_field hi _ _ (by decide) rfl hz, toInt_ofInt_16 hv]

/-- An 8-bit index below other fields is read back. -/
theorem idxOf_or_field {hi : Word} {v : Nat} (hz : ∀ k < 8, hi.getLsbD k = false) (hv : inUnsigned8 v = true) :
    idxOf (hi ||| field 0 (BitVec.ofNat 8 v)) = v := by
  rw [idxOf, extractLsb'_or_field hi _ _ (by decide) rfl hz, toNat_ofNat_8 hv]

theorem decodeFields_drive (ch : Channel) (dir : Dir) (inv : Bool) {mag : Int} (h : inSigned16 mag = true) :
    decodeFields 3 (encode (.drive ch dir inv mag)) = .ok (.drive ch dir inv mag) := by
  have hmag : signed16Of (encode (.drive ch dir inv mag)) = mag :=
    signed16Of_or_field (by cases ch <;> cases dir <;> cases inv <;> decide) h
  rw [decodeFields, hmag, chOf, dirOf, invOf, encode, getLsbD_or_field _ _ (by decide),
    getLsbD_or_field _ _ (by decide), getLsbD_or_field _ _ (by decide)]
  cases ch <;> cases dir <;> cases inv <;> rfl

theorem decodeFields_encode {i : Instr} (h : i.wellFormed = true) :
    decodeFields (Laws.CanonicalWord.opcode i) (encode i) = .ok i := by
  cases i with
  | encReset sel => cases sel <;> rfl
  | encSnap sel => cases sel <;> rfl
  | drive ch dir inv mag => exact decodeFields_drive ch dir inv h
  | stop ch => cases ch <;> rfl
  | servoSet angle =>
    exact congrArg (fun v => Except.ok (Instr.servoSet v)) (signed16Of_or_field (by decide) h)
  | rdreg idx =>
    exact congrArg (fun v => Except.ok (Instr.rdreg v)) (idxOf_or_field (by decide) h)
  | _ => rfl

theorem decode_encode {i : Instr} (h : i.wellFormed = true) : decode (encode i) = .ok i :=
  (Laws.CanonicalWord.decode_encode_eq_fields (canonicalWord i)).trans (decodeFields_encode h)

/-- Settles O1: an encoding passes the match and mask test of its opcode, and each operand is read back from its
field. -/
theorem decodeOfEncodeIsIdentity : Obligations.DecodeOfEncodeIsIdentity := fun _ h => decode_encode h

/-! ### Encoding what was decoded -/

theorem extractLsb'_one (lo : Nat) (w : Word) : w.extractLsb' lo 1 = BitVec.ofBool (w.getLsbD lo) := by
  apply BitVec.eq_of_getLsbD_eq
  intro k hk
  simp [Nat.lt_one_iff.1 hk]

theorem chBit_chOf (w : Word) : chBit (chOf w) = w.extractLsb' 27 1 := by
  rw [extractLsb'_one, chOf]
  cases w.getLsbD 27 <;> rfl

theorem dirBit_dirOf (w : Word) : dirBit (dirOf w) = w.extractLsb' 26 1 := by
  rw [extractLsb'_one, dirOf]
  cases w.getLsbD 26 <;> rfl

theorem ofBool_invOf (w : Word) : BitVec.ofBool (invOf w) = w.extractLsb' 25 1 := (extractLsb'_one 25 w).symm

theorem ofInt_signed16Of (w : Word) : BitVec.ofInt 16 (signed16Of w) = w.extractLsb' 0 16 := BitVec.ofInt_toInt

theorem ofNat_idxOf (w : Word) : BitVec.ofNat 8 (idxOf w) = w.extractLsb' 0 8 :=
  (BitVec.ofNat_toNat 8 _).trans (BitVec.setWidth_eq _)

theorem selOf_eq_some {w : Word} {sel : Sel} :
    selOf w = some sel ↔
      w.getLsbD 26 = (selBits sel).getLsbD 0 ∧ w.getLsbD 27 = (selBits sel).getLsbD 1 := by
  unfold selOf
  cases w.getLsbD 27 <;> cases w.getLsbD 26 <;> cases sel <;> decide

theorem selBits_of_selOf {w : Word} {sel : Sel} (h : selOf w = some sel) : selBits sel = w.extractLsb' 26 2 := by
  obtain ⟨h0, h1⟩ := selOf_eq_some.1 h
  apply BitVec.eq_of_getLsbD_eq
  intro k hk
  rw [BitVec.getLsbD_extractLsb']
  interval_cases k
  · simpa using h0.symm
  · simpa using h1.symm

theorem inSigned16_iff {v : Int} : inSigned16 v = true ↔ -32768 ≤ v ∧ v ≤ 32767 := by
  simp [inSigned16]

theorem inSigned16_signed16Of (w : Word) : inSigned16 (signed16Of w) = true := by
  have hlo : -32768 ≤ signed16Of w := (w.extractLsb' 0 16).le_toInt
  have hhi : signed16Of w < 32768 := (w.extractLsb' 0 16).toInt_lt
  exact inSigned16_iff.2 ⟨hlo, Int.le_of_lt_add_one hhi⟩

theorem inUnsigned8_idxOf (w : Word) : inUnsigned8 (idxOf w) = true :=
  decide_eq_true (Nat.le_of_lt_succ (w.extractLsb' 0 8).isLt)

/-- A command without operands leaves no bit of its word open. -/
theorem or_and_not_allOnes (v w : Word) : v ||| (w &&& ~~~0xFFFFFFFF#32) = v := by
  rw [show ~~~0xFFFFFFFF#32 = 0#32 by decide, BitVec.and_zero, BitVec.or_zero]

/-- The encoding of the fields read from a word is the opcode and the bits its mask leaves open. -/
theorem encode_of_decodeFields {op : Nat} {w : Word} {i : Instr} (h : decodeFields op w = .ok i) :
    i.wellFormed = true ∧ encode i = matchOf op ||| (w &&& ~~~maskOf op) := by
  match op, h with
  | 0, h | 6, h | 7, h =>
    cases h
    exact ⟨rfl, (or_and_not_allOnes _ w).symm⟩
  | 1, h | 2, h =>
    cases hsel : selOf w with
    | none => simp [decodeFields, hsel] at h
    | some sel =>
      simp only [decodeFields, hsel, Except.ok.injEq] at h
      subst h
      refine ⟨rfl, ?_⟩
      rw [encode, selBits_of_selOf hsel, field_extractLsb']
      rfl
  | 3, h =>
    cases h
    refine ⟨inSigned16_signed16Of w, ?_⟩
    rw [encode, chBit_chOf, dirBit_dirOf, ofBool_invOf, ofInt_signed16Of]
    simp only [field_extractLsb', BitVec.or_assoc, ← BitVec.and_or_distrib_left]
    rfl
  | 4, h =>
    cases h
    refine ⟨rfl, ?_⟩
    rw [encode, chBit_chOf, field_extractLsb']
    rfl
  | 5, h =>
    cases h
    refine ⟨inSigned16_signed16Of w, ?_⟩
    rw [encode, ofInt_signed16Of, field_extractLsb']
    rfl
  | 8, h =>
    cases h
    refine ⟨inUnsigned8_idxOf w, ?_⟩
    rw [encode, ofNat_idxOf, field_extractLsb']
    rfl
  | _ + 9, h => cases h

/-- Settles O2: the fields cover the bits the mask leaves open, and the match and mask test fixes the others. -/
theorem encodeOfDecodeIsIdentity : Obligations.EncodeOfDecodeIsIdentity := by
  intro w i h
  obtain ⟨-, hmask, hfields⟩ := decode_eq_ok.1 h
  obtain ⟨hwf, hencode⟩ := encode_of_decodeFields hfields
  exact ⟨hwf, hencode.trans (eq_or_and_not_of_and_eq hmask).symm⟩

/-! ### Reserved bits -/

theorem matchOf_eq_field : ∀ op < 9, matchOf op = field 28 (BitVec.ofNat 4 op) := by decide

/-- A field of bits that a word has 0 can be added to it only as 0. -/
theorem or_field_eq_left {hi : Word} {lo n : Nat} {v : BitVec n} (hn : lo + n ≤ 32)
    (hz : ∀ k < n, hi.getLsbD (lo + k) = false) : hi ||| field lo v = hi ↔ v = 0 := by
  constructor
  · intro h
    apply BitVec.eq_of_getLsbD_eq
    intro k hk
    have hbit : (hi ||| field lo v).getLsbD (lo + k) = hi.getLsbD (lo + k) := by rw [h]
    rw [BitVec.getLsbD_or, hz k hk, Bool.false_or, getLsbD_field, Nat.add_sub_cancel_left] at hbit
    simpa [show lo + k < 32 by omega] using hbit
  · rintro rfl
    simp [field]

/-- A mask that looks at the opcode and at one run of bits passes the words of its opcode that have 0 there. -/
theorem and_maskOf_eq_matchOf {lo n : Nat} {w : Word} (hop : opOf w < 9)
    (hmask : maskOf (opOf w) = field 28 (BitVec.allOnes 4) ||| field lo (BitVec.allOnes n)) (hn : lo + n ≤ 28) :
    w &&& maskOf (opOf w) = matchOf (opOf w) ↔ w.extractLsb' lo n = 0 := by
  have hopBits : field 28 (w.extractLsb' 28 4) = matchOf (opOf w) := by
    rw [matchOf_eq_field _ hop, opOf, BitVec.ofNat_toNat, BitVec.setWidth_eq]
  rw [hmask, BitVec.and_or_distrib_left, ← field_extractLsb', ← field_extractLsb', hopBits]
  refine or_field_eq_left (by omega) fun k hk => ?_
  rw [← hopBits, getLsbD_field, decide_eq_false (show ¬ 28 ≤ lo + k by omega), Bool.and_false, Bool.false_and]

theorem decode_eq_reservedField_of_maskOf {op lo n : Nat} {w : Word} (hw : opOf w = op) (hop : op < 9)
    (hmask : maskOf op = field 28 (BitVec.allOnes 4) ||| field lo (BitVec.allOnes n)) (hn : lo + n ≤ 28) :
    decode w = .error .reservedField ↔ w.extractLsb' lo n ≠ 0 := by
  subst hw
  rw [decode_eq_reservedField hop, Ne, and_maskOf_eq_matchOf hop hmask hn]

end Sys2Proof

namespace Sys2Proof.Machine

/-- The only error a command itself answers is BAD_REG (60_exceptions.md R205). -/
theorem exec_error_data {i : Instr} {s t : State} {data : Word} (h : exec i s = .next t)
    (hresp : t.resp = some ⟨true, data⟩) : data = errorData .badReg := by
  cases i with
  | rdreg idx =>
    cases (execRdreg_eq_next idx s).symm.trans h
    cases hread : regRead idx s.block with
    | some w => simp [hread] at hresp
    | none => simpa [hread] using hresp.symm
  | _ => cases h; cases hresp

theorem errorData_eq_two {e : ErrorCode} (h : errorData e = 2) : e = .reservedField := by
  cases e with
  | reservedField => rfl
  | _ => exact absurd h (by decide)

theorem runCommand_resp_ne_reservedField {w : Word} (h : decode w ≠ .error .reservedField) (s : State) :
    ∃ t, runCommand w s = .next t ∧ t.resp ≠ some ⟨true, 2⟩ := by
  cases hd : decode w with
  | ok i =>
    obtain ⟨b, r, hnext⟩ := exec_answers i s
    refine ⟨_, (runCommand_ok hd s).trans hnext, fun hresp => ?_⟩
    exact absurd (exec_error_data hnext hresp) (by decide)
  | error e =>
    refine ⟨_, runCommand_error hd s, fun hresp => h ?_⟩
    have hdata : errorData e = 2 := by simpa using hresp
    rw [hd, errorData_eq_two hdata]

/-- Settles O5: for each opcode the mask looks at the opcode and at the run of bits R71 marks 0, and no other error
has the code 2. -/
theorem reservedBitAnswered : Obligations.ReservedBitAnswered := by
  intro w hle
  refine ⟨?_, fun h s => runCommand_error h s, fun h s => runCommand_resp_ne_reservedField h s⟩
  generalize hop : (w.extractLsb' 28 4).toNat = op at hle ⊢
  interval_cases op
  all_goals exact decode_eq_reservedField_of_maskOf hop (by decide) (by decide) (by decide)

/-- Settles O3: the decoder computes each of the ten words. -/
theorem writtenWordsDecode : Obligations.WrittenWordsDecode :=
  ⟨rfl, rfl, rfl, rfl, rfl, rfl, rfl, rfl, rfl, rfl⟩

end Sys2Proof.Machine
end

section
/-! The obligations of 30_encoding.md about the host's tools: the 16-bit saturation, the assembler's lines, and the
replies to the host messages. -/

namespace Sys2Proof.Machine

/-! ### Saturation (R86, R87) -/

theorem sat16_eq_max_min (v : Int) : sat16 v = max (-32768) (min v 32767) :=
  clamp_eq_max_min (lo := -32768) (by decide)

theorem inSigned16_sat16 (v : Int) : inSigned16 (sat16 v) = true := by
  rw [inSigned16_iff, sat16_eq_max_min]
  omega

/-- A clamp to a range inside 16 bits does not see a saturation to 16 bits before it. -/
theorem clamp_sat16 {lo hi : Int} (v : Int) (hlo : -32768 ≤ lo) (hle : lo ≤ hi) (hhi : hi ≤ 32767) :
    clamp (sat16 v) lo hi = clamp v lo hi := by
  rw [clamp_eq_max_min hle, clamp_eq_max_min hle, sat16_eq_max_min]
  omega

theorem appliedMagnitude_sat16 (v : Int) :
    appliedMagnitude Config.maxIntensity (sat16 v) = appliedMagnitude Config.maxIntensity v :=
  clamp_sat16 v (by decide) (Int.natCast_nonneg _) (by exact_mod_cast Config.maxIntensity_le)

theorem appliedAngle_sat16 (v : Int) : appliedAngle (sat16 v) = appliedAngle v :=
  clamp_sat16 v (by decide) (by decide) (by decide)

/-- Settles O50: both clamps have their range inside 16 bits. -/
theorem hostSaturationIsExact : Obligations.HostSaturationIsExact :=
  fun v => ⟨appliedMagnitude_sat16 v, appliedAngle_sat16 v⟩

/-! ### Assembler lines (R85, R86) -/

/-- A line of commands is accepted when all of them have an encoding, and then gives their words. -/
theorem assembleLine_eq_of_ne_word {l : AsmLine} (h : ∀ n, l ≠ .word n) :
    assembleLine l = if (expandLine l).all Instr.wellFormed then some ((expandLine l).map encode) else none := by
  cases l with
  | word n => exact absurd rfl (h n)
  | _ => rfl

theorem assembleLine_eq_some {l : AsmLine} {ws : List Word} (hl : ∀ n, l ≠ .word n)
    (h : assembleLine l = some ws) :
    (∀ i ∈ expandLine l, i.wellFormed = true) ∧ (expandLine l).map encode = ws := by
  rw [assembleLine_eq_of_ne_word hl] at h
  split_ifs at h with hall
  exact ⟨List.all_eq_true.1 hall, Option.some_inj.1 h⟩

theorem map_decode_map_encode {is : List Instr} (h : ∀ i ∈ is, i.wellFormed = true) :
    (is.map encode).map decode = is.map fun i => Except.ok i := by
  rw [List.map_map]
  exact List.map_congr_left fun i hi => decode_encode (h i hi)

/-- A line that stands for one command is refused exactly where the command has no encoding. -/
theorem assembleLine_eq_ite {l : AsmLine} {i : Instr} (hl : ∀ n, l ≠ .word n) (h : expandLine l = [i]) :
    assembleLine l = if i.wellFormed then some [encode i] else none := by
  rw [assembleLine_eq_of_ne_word hl, h]
  simp

theorem assembleLine_instr (i : Instr) :
    assembleLine (.instr i) = if i.wellFormed then some [encode i] else none := assembleLine_eq_ite nofun rfl

theorem assembleLine_instr_isSome (i : Instr) :
    (assembleLine (.instr i)).isSome = true ↔ i.wellFormed = true := by
  rw [assembleLine_instr, Option.isSome_ite]

theorem assembleLine_drives (ch : Channel) (v : Int) (inv : Bool) :
    assembleLine (.drives ch v inv) =
      if (drivesInstr ch v inv).wellFormed then some [encode (drivesInstr ch v inv)] else none :=
  assembleLine_eq_ite nofun rfl

theorem drivesInstr_of_nonneg (ch : Channel) {v : Int} (inv : Bool) (h : 0 ≤ v) :
    drivesInstr ch v inv = .drive ch .fwd inv v := if_pos h

theorem drivesInstr_of_neg (ch : Channel) {v : Int} (inv : Bool) (h : v < 0) :
    drivesInstr ch v inv = .drive ch .rev inv (-v) := if_neg (not_le.2 h)

/-- The magnitude of −32768 has no encoding (R86). -/
theorem drivesInstr_wellFormed (ch : Channel) (v : Int) (inv : Bool) :
    (drivesInstr ch v inv).wellFormed = true ↔ -32767 ≤ v ∧ v ≤ 32767 := by
  rcases lt_or_ge v 0 with hv | hv
  · rw [drivesInstr_of_neg ch inv hv, Instr.wellFormed, inSigned16_iff]
    omega
  · rw [drivesInstr_of_nonneg ch inv hv, Instr.wellFormed, inSigned16_iff]
    omega

theorem assembleLine_drives_eq_some {ch : Channel} {v : Int} {inv : Bool} (hlo : -32767 ≤ v) (hhi : v ≤ 32767) :
    assembleLine (.drives ch v inv) = some [encode (drivesInstr ch v inv)] := by
  rw [assembleLine_drives, if_pos ((drivesInstr_wellFormed ch v inv).2 ⟨hlo, hhi⟩)]

theorem assembleLine_drives_isSome (ch : Channel) (v : Int) (inv : Bool) :
    (assembleLine (.drives ch v inv)).isSome = true ↔ -32767 ≤ v ∧ v ≤ 32767 := by
  rw [assembleLine_drives, Option.isSome_ite, drivesInstr_wellFormed]

theorem assembleLine_word (w : Word) : assembleLine (.word w.toNat) = some [w] := by
  rw [assembleLine, if_pos w.isLt, BitVec.ofNat_toNat, BitVec.setWidth_eq]

/-- Settles O51: a line is accepted when its commands have encodings, which decode to them, and each line's commands
are those of its expansion. -/
theorem assemblerRefusesOutOfRange : Obligations.AssemblerRefusesOutOfRange := by
  refine ⟨fun l ws hl h => ?_,
    fun ch inv v => ⟨assembleLine_drives_isSome ch v inv, fun hlo hhi => ?_, fun hlo hneg => ?_⟩,
    rfl, rfl, assembleLine_instr, fun ch dir inv v => ?_, fun v => ?_, fun n => ?_, sat16_eq_max_min, assembleLine_word⟩
  · obtain ⟨hwf, rfl⟩ := assembleLine_eq_some hl h
    exact ⟨hwf, map_decode_map_encode hwf⟩
  · rw [assembleLine_drives_eq_some (by omega) hhi, drivesInstr_of_nonneg ch inv hlo]
  · rw [assembleLine_drives_eq_some hlo (by omega), drivesInstr_of_neg ch inv hneg]
  · exact (assembleLine_instr_isSome _).trans inSigned16_iff
  · exact (assembleLine_instr_isSome _).trans inSigned16_iff
  · exact (assembleLine_instr_isSome _).trans decide_eq_true_iff

/-! ### Replies to host messages (R94, R95) -/

theorem toInt_ofInt_32 {x : Int} (h0 : 0 ≤ x) (h1 : x ≤ 32767) : (BitVec.ofInt 32 x).toInt = x :=
  BitVec.toInt_ofInt_eq_self (by decide) (by norm_num; omega) (by norm_num; omega)

theorem toInt_ofInt_appliedMagnitude (v : Int) :
    (BitVec.ofInt 32 (appliedMagnitude Config.maxIntensity (sat16 v))).toInt =
      max 0 (min v Config.maxIntensity) := by
  have hmax : (Config.maxIntensity : Int) ≤ 32767 := by exact_mod_cast Config.maxIntensity_le
  obtain ⟨hlo, hhi⟩ := appliedMagnitude_bounds Config.maxIntensity (sat16 v)
  rw [toInt_ofInt_32 hlo (hhi.trans hmax), appliedMagnitude_sat16]
  exact clamp_eq_max_min (Int.natCast_nonneg _)

theorem toInt_ofInt_appliedAngle (v : Int) :
    (BitVec.ofInt 32 (appliedAngle (sat16 v))).toInt = max 0 (min v 180) := by
  obtain ⟨hlo, hhi⟩ := appliedAngle_bounds (sat16 v)
  rw [toInt_ofInt_32 hlo (hhi.trans (by decide)), appliedAngle_sat16]
  exact clamp_eq_max_min (by decide)

/-- The reply to `ENC:READ` carries the counts whose snapshots the two RDREGs answer. -/
theorem reply_encRead (r : Response) (cnt : Pair (BitVec Config.countW)) :
    Message.encRead.reply [r, ⟨false, cnt.a.signExtend 32⟩, ⟨false, cnt.b.signExtend 32⟩] =
      some (.counts cnt.a.toInt cnt.b.toInt) := by
  simp only [Message.reply, BitVec.signExtend_eq]

/-- The reply to a move carries the applied values that its commands echo. -/
theorem reply_move (a b angle : Int) :
    (Message.move a b angle).reply
        [⟨false, BitVec.ofInt 32 (appliedMagnitude Config.maxIntensity (sat16 a))⟩,
          ⟨false, BitVec.ofInt 32 (appliedMagnitude Config.maxIntensity (sat16 (Config.ratioFn b)))⟩,
          ⟨false, BitVec.ofInt 32 (appliedAngle (sat16 angle))⟩] =
      some (.applied (max 0 (min a Config.maxIntensity)) (max 0 (min (Config.ratioFn b) Config.maxIntensity))
        (max 0 (min angle 180))) := by
  simp only [Message.reply, toInt_ofInt_appliedMagnitude, toInt_ofInt_appliedAngle]

/-- Settles O49: the responses are the snapshots taken by the first command, or the three echoes. -/
theorem hostMessagesReportAppliedValues : Obligations.HostMessagesReportAppliedValues :=
  fun s => ⟨⟨_, _, rfl, reply_encRead _ s.block.cnt⟩, fun a b angle => ⟨_, _, rfl, reply_move a b angle⟩⟩

/-! ### Responses with steps of other agents between the commands -/

theorem responses_succ {s t : State} (n : Nat) (h : step s = .next t) :
    responses (n + 1) s = t.resp.toList ++ responses n t := by
  simp only [responses, observations, h, List.filterMap_cons]
  cases t.resp <;> rfl

/-- Steps of other agents answer nothing, and without a `Reset` they keep the snapshots. -/
theorem responses_environment {mid rest : List Event} (hmid : ∀ e ∈ mid, e.isStep = true ∧ e.word = none) {s : State}
    (hsched : s.schedule = mid ++ rest) :
    ∃ t, t.schedule = rest ∧ (∀ n, responses (mid.length + n) s = responses n t) ∧
      ((∀ e ∈ mid, e ≠ .reset) → t.block.snap = s.block.snap) := by
  induction mid generalizing s with
  | nil => exact ⟨s, hsched, fun n => by rw [List.length_nil, Nat.zero_add], fun _ => rfl⟩
  | cons e mid ih =>
    obtain ⟨⟨hstep, hword⟩, hmid⟩ := List.forall_mem_cons.1 hmid
    obtain ⟨u, hrun, husched, hresp, husnap⟩ :=
      runEvent_environment hstep hword (s := { s with schedule := mid ++ rest, resp := none }) rfl
    obtain ⟨t, htsched, hresponses, htsnap⟩ := ih hmid husched
    refine ⟨t, htsched, fun n => ?_, fun hreset => ?_⟩
    · rw [List.length_cons, Nat.add_right_comm, responses_succ _ ((step_of_cons hsched).trans hrun), hresp,
        Option.toList_none, List.nil_append, hresponses]
    · obtain ⟨he, hreset⟩ := List.forall_mem_cons.1 hreset
      exact (htsnap hreset).trans (husnap he)

/-- A scheduled command gives its response, and the steps of other agents after it add none. -/
theorem responses_command {i : Instr} {mid rest : List Event} {s : State}
    (hsched : s.schedule = .command (encode i) :: (mid ++ rest)) (hwf : i.wellFormed = true)
    (hmid : ∀ e ∈ mid, e.isStep = true ∧ e.word = none) {b : Block Config.countW Config.timeW} {r : Response}
    (hexec : exec i { s with schedule := mid ++ rest, resp := none } =
      .next { s with block := b, schedule := mid ++ rest, resp := some r }) :
    ∃ t, t.schedule = rest ∧ (∀ n, responses (mid.length + n + 1) s = r :: responses n t) ∧
      ((∀ e ∈ mid, e ≠ .reset) → t.block.snap = b.snap) := by
  obtain ⟨t, htsched, hresponses, hsnap⟩ :=
    responses_environment hmid (s := { s with block := b, schedule := mid ++ rest, resp := some r }) rfl
  have hstep := (step_of_cons hsched).trans ((runCommand_ok (decode_encode hwf) _).trans hexec)
  exact ⟨t, htsched, fun n => by rw [responses_succ _ hstep, hresponses]; rfl, hsnap⟩

section Interleaved
variable {mid₁ mid₂ : List Event} (hmid₁ : ∀ e ∈ mid₁, e.isStep = true ∧ e.word = none)
  (hmid₂ : ∀ e ∈ mid₂, e.isStep = true ∧ e.word = none) {s : State} {rest : List Event}
include hmid₁ hmid₂

/-- Both RDREGs answer the snapshot that ENC_SNAP took. -/
theorem responses_encRead (hreset₁ : ∀ e ∈ mid₁, e ≠ .reset) (hreset₂ : ∀ e ∈ mid₂, e ≠ .reset)
    (hsched : s.schedule = .command (encode (.encSnap .all)) ::
      (mid₁ ++ .command (encode (.rdreg 1)) :: (mid₂ ++ .command (encode (.rdreg 2)) :: rest))) :
    responses (mid₁.length + mid₂.length + 3) s =
      [⟨false, 0⟩, ⟨false, s.block.cnt.a.signExtend 32⟩, ⟨false, s.block.cnt.b.signExtend 32⟩] := by
  obtain ⟨t, htsched, htresp, htsnap⟩ := responses_command hsched rfl hmid₁ rfl
  obtain ⟨u, husched, huresp, husnap⟩ := responses_command htsched rfl hmid₂ rfl
  obtain ⟨v, -, hvresp, -⟩ := responses_command (mid := []) husched rfl nofun rfl
  have ht : t.block.snap = s.block.cnt := htsnap hreset₁
  have hu : u.block.snap = s.block.cnt := (husnap hreset₂).trans ht
  have hlast : responses 1 u = [⟨false, u.block.snap.b.signExtend 32⟩] := hvresp 0
  rw [show mid₁.length + mid₂.length + 3 = mid₁.length + (mid₂.length + 1 + 1) + 1 by omega, htresp, huresp, hlast,
    ht, hu]

/-- Each command of a move echoes its applied value, which depends on no state. -/
theorem responses_move {a b angle : Int}
    (hsched : s.schedule = .command (encode (.drive .a .fwd true (sat16 a))) ::
      (mid₁ ++ .command (encode (.drive .b .fwd false (sat16 b))) ::
        (mid₂ ++ .command (encode (.servoSet (sat16 angle))) :: rest))) :
    responses (mid₁.length + mid₂.length + 3) s =
      [⟨false, BitVec.ofInt 32 (appliedMagnitude Config.maxIntensity (sat16 a))⟩,
        ⟨false, BitVec.ofInt 32 (appliedMagnitude Config.maxIntensity (sat16 b))⟩,
        ⟨false, BitVec.ofInt 32 (appliedAngle (sat16 angle))⟩] := by
  obtain ⟨t, htsched, htresp, -⟩ := responses_command hsched (inSigned16_sat16 a) hmid₁ rfl
  obtain ⟨u, husched, huresp, -⟩ := responses_command htsched (inSigned16_sat16 b) hmid₂ rfl
  obtain ⟨v, -, hvresp, -⟩ := responses_command (mid := []) husched (inSigned16_sat16 angle) nofun rfl
  have hlast : responses 1 u = [⟨false, BitVec.ofInt 32 (appliedAngle (sat16 angle))⟩] := hvresp 0
  rw [show mid₁.length + mid₂.length + 3 = mid₁.length + (mid₂.length + 1 + 1) + 1 by omega, htresp, huresp, hlast]

end Interleaved

/-- Settles O53: the steps between the commands answer nothing, what a move echoes depends on no state, and only
`Reset` among them writes a snapshot. -/
theorem hostRepliesAdmitOtherSteps : Obligations.HostRepliesAdmitOtherSteps := by
  intro s mid₁ mid₂ rest hmid
  obtain ⟨hmid₁, hmid₂⟩ := List.forall_mem_append.1 hmid
  refine ⟨⟨rfl, fun hreset hsched => ?_⟩, fun a b angle => ⟨rfl, fun hsched => ?_⟩⟩
  · obtain ⟨hreset₁, hreset₂⟩ := List.forall_mem_append.1 hreset
    rw [responses_encRead hmid₁ hmid₂ hreset₁ hreset₂ hsched]
    exact reply_encRead _ s.block.cnt
  · rw [responses_move hmid₁ hmid₂ hsched]
    exact reply_move a b angle

end Sys2Proof.Machine
end

section
/-! The obligations of 40_counter.md: ENC_RESET and ENC_SNAP, which transitions count, one edge with its wrap, and the
counts of whole schedules between a reset and a snapshot. -/

namespace Sys2Proof.Machine

/-! ### The commands (R102, R104) -/

/-- Settles O17: the three selections of `resetCounters`. -/
theorem encResetClearsSelectedCounters : Obligations.EncResetClearsSelectedCounters := fun _ => ⟨rfl, rfl, rfl⟩

/-- Settles O18: the three selections of `snapCounters`. -/
theorem encSnapCopiesSelectedCounters : Obligations.EncSnapCopiesSelectedCounters := fun _ => ⟨rfl, rfl, rfl⟩

/-! ### One edge (R100, R101, R105) -/

/-- EDGE_MODE in words: a level change, of a direction the mode selects. -/
theorem edgeSelected_eq_true_iff (mode : EdgeMode) (before after : Bool) :
    edgeSelected mode before after = true ↔
      before ≠ after ∧ (mode = .both ∨ (mode = .rising ∧ after = true) ∨ (mode = .falling ∧ after = false)) := by
  revert before after
  cases mode <;> decide

/-- Settles O31: the pin's step adds the number of edges that EDGE_MODE makes of the transition, one or none. -/
theorem edgeModeSelectsTransitions : Obligations.EdgeModeSelectsTransitions := by
  intro s c v rest hsched
  refine ⟨_, (step_of_cons hsched).trans (runEvent_phaseA c v _), rfl, ?_⟩
  simp only [← edgeSelected_eq_true_iff]
  split <;> simp

/-- The increment of a signed counter: at the greatest value it wraps to the least. -/
theorem toInt_add_one {n : Nat} (hn : 2 ≤ n) (x : BitVec n) :
    (x + 1).toInt = if x.toInt = 2 ^ (n - 1) - 1 then -2 ^ (n - 1) else x.toInt + 1 := by
  obtain ⟨m, rfl⟩ : ∃ m, n = m + 1 := ⟨n - 1, by omega⟩
  have hlo : -(2 : Int) ^ m ≤ x.toInt := BitVec.le_toInt x
  have hhi : x.toInt < (2 : Int) ^ m := BitVec.toInt_lt
  have hmod : ((2 ^ (m + 1) : Nat) : Int) = 2 * 2 ^ m := by push_cast; ring
  have hadd : (x + 1).toInt = (x.toInt + 1).bmod (2 ^ (m + 1)) := by
    rw [BitVec.toInt_add, show (1 : BitVec (m + 1)).toInt = 1 from BitVec.toInt_one (by omega)]
  rw [hadd, Nat.add_sub_cancel]
  split
  case isTrue hmax =>
    rw [hmax, sub_add_cancel, ← Int.sub_bmod_right, hmod, show (2 : Int) ^ m - 2 * 2 ^ m = -2 ^ m by ring]
    exact Int.bmod_eq_of_le_mul_two (by omega) (by omega)
  case isFalse hmax => exact Int.bmod_eq_of_le_mul_two (by omega) (by omega)

/-- Settles O30: the edge's step adds 1 to its register, and so does `countUp` under the block's policy. -/
theorem edgeAddsOneAndWraps : Obligations.EdgeAddsOneAndWraps := by
  refine ⟨fun s c rest hsched => ?_, fun n x y hn hup => ?_⟩
  · exact ⟨s.block.cnt.get c + 1, (step_of_cons hsched).trans (runEvent_encEdge c _), toInt_add_one (by decide) _⟩
  · cases hup
    exact toInt_add_one hn x

/-! ### Counting along a schedule (R106, R107) -/

/-- The event is a step that changes channel c's counter by its `Event.edges` alone: no burst of c, whose gain is free,
and no reset of c. The premise of R106 and R107 on what stands after the reset. -/
def Event.CountsExactly (c : Channel) (e : Event) : Prop :=
  e.isStep = true ∧ e.spacedFor c = true ∧ e.clears c = false

theorem Event.edges_of_word {e : Event} {w : Word} (hw : e.word = some w) (c : Channel) (level : Bool) :
    e.edges c level = 0 := by
  cases e with
  | command w => rfl
  | link bytes => rfl
  | _ => cases hw

theorem Event.levelAfter_of_word {e : Event} {w : Word} (hw : e.word = some w) (c : Channel) (level : Bool) :
    e.levelAfter c level = level := by
  cases e with
  | command w => rfl
  | link bytes => rfl
  | _ => cases hw

/-- A command that does not reset channel c leaves its count, as the access matrix says. -/
theorem cnt_get_of_word {e : Event} {w : Word} (hw : e.word = some w) {c : Channel} (hclears : e.clears c = false)
    {s t : State} (h : runEvent e s = .next t) : t.block.cnt.get c = s.block.cnt.get c := by
  by_contra hne
  rcases (runEvent_accessMatrix h).cnt c hne with rfl | ⟨k, rfl⟩ | ⟨v, rfl⟩ | hclears'
  · cases hw
  · cases hw
  · cases hw
  · rw [hclears] at hclears'
    cases hclears'

/-- What a step does to channel c: it adds the edges the event stands for, and leaves the A-phase level that decides
on the next pin event. -/
theorem runEvent_counts {c : Channel} {e : Event} (he : e.CountsExactly c) (s : State) :
    ∃ t, runEvent e s = .next t ∧ t.schedule = s.schedule ∧
      t.phaseA.get c = e.levelAfter c (s.phaseA.get c) ∧
      t.block.cnt.get c = s.block.cnt.get c + BitVec.ofNat Config.countW (e.edges c (s.phaseA.get c)) := by
  obtain ⟨hstep, hspaced, hclears⟩ := he
  cases hw : e.word with
  | some w =>
    obtain ⟨b, r, hrun⟩ := runCommand_answers w s
    have hevent := (runEvent_of_word hw s).trans hrun
    refine ⟨_, hevent, rfl, (Event.levelAfter_of_word hw c _).symm, ?_⟩
    rw [Event.edges_of_word hw, BitVec.add_zero]
    exact cnt_get_of_word hw hclears hevent
  | none =>
    cases e with
    | command w => cases hw
    | link bytes =>
      obtain ⟨t, hrun, -⟩ := runEvent_enabled hstep s
      cases (runEvent_link_refused hw s).symm.trans hrun
    | encEdge d =>
      refine ⟨_, runEvent_encEdge d s, rfl, rfl, ?_⟩
      by_cases hd : d = c <;> simp [Event.edges, Pair.get_set, hd]
    | encBurst d k =>
      have hd : d ≠ c := of_decide_eq_true hspaced
      exact ⟨_, runEvent_encBurst d k s, rfl, rfl, by simp [Event.edges, Pair.get_set, hd]⟩
    | phaseA d v =>
      refine ⟨_, runEvent_phaseA d v s, rfl, Pair.get_set _ _ _ _, ?_⟩
      by_cases hd : d = c <;> simp [Event.edges, Pair.get_set, hd]
    | reset => cases hclears
    | _ => exact ⟨_, rfl, rfl, rfl, (BitVec.add_zero _).symm⟩

/-- The edges of a schedule's later part are counted from the level its first part leaves. -/
theorem edgesIn_append (c : Channel) (level : Bool) (es fs : List Event) :
    edgesIn c level (es ++ fs) = edgesIn c level es + edgesIn c (es.foldl (Event.levelAfter c) level) fs := by
  induction es generalizing level with
  | nil => exact (Nat.zero_add _).symm
  | cons e es ih => simp only [List.cons_append, edgesIn, List.foldl_cons, ih, Nat.add_assoc]

/-- A run over such events adds the number of edges among them to channel c's counter. -/
theorem core_run_counts {c : Channel} {es rest : List Event} (hes : ∀ e ∈ es, e.CountsExactly c) {s : State}
    (hsched : s.schedule = es ++ rest) :
    ∃ t : State, Sys2Proof.core.run es.length s = .next t ∧ t.schedule = rest ∧
      t.phaseA.get c = es.foldl (Event.levelAfter c) (s.phaseA.get c) ∧
      t.block.cnt.get c = s.block.cnt.get c + BitVec.ofNat Config.countW (edgesIn c (s.phaseA.get c) es) := by
  induction es generalizing s with
  | nil => exact ⟨s, rfl, hsched, rfl, (BitVec.add_zero _).symm⟩
  | cons e es ih =>
    obtain ⟨he, hes⟩ := List.forall_mem_cons.1 hes
    obtain ⟨u, hrun, husched, hulevel, hucnt⟩ := runEvent_counts he { s with schedule := es ++ rest, resp := none }
    obtain ⟨t, htrun, htsched, htlevel, htcnt⟩ := ih hes husched
    have hstep : step s = .next u := (step_of_cons hsched).trans hrun
    refine ⟨t, (core_run_succ _ hstep).trans htrun, htsched, htlevel.trans (by rw [hulevel]; rfl), ?_⟩
    rw [htcnt, hucnt, hulevel, edgesIn, BitVec.ofNat_add, BitVec.add_assoc]

/-- A count below half the counter's range is read back as it is. -/
theorem toInt_ofNat_of_lt {n k : Nat} (hn : 0 < n) (hk : k < 2 ^ (n - 1)) : (BitVec.ofNat n k).toInt = k := by
  have hlo : -(2 : Int) ^ (n - 1) ≤ k := (neg_nonpos.2 (by positivity)).trans (Int.natCast_nonneg k)
  rw [← BitVec.ofInt_natCast]
  exact BitVec.toInt_ofInt_eq_self hn hlo (by exact_mod_cast hk)

/-- Settles O40: from a cleared counter the count is the number of edges so far, and that number does not overflow. -/
theorem countsAreMonotoneBetweenResets : Obligations.CountsAreMonotoneBetweenResets := by
  intro s c es rest e hsched hzero hes hbound
  obtain ⟨hes, he⟩ := List.forall_mem_append.1 hes
  obtain ⟨t, htrun, htsched, htlevel, htcnt⟩ := core_run_counts hes hsched
  obtain ⟨u, hurun, -, -, hucnt⟩ := runEvent_counts (he e (List.mem_singleton_self e))
    { t with schedule := rest, resp := none }
  refine ⟨t, u, htrun, (step_of_cons htsched).trans hurun, ?_⟩
  have hsum : edgesIn c (s.phaseA.get c) (es ++ [e]) =
      edgesIn c (s.phaseA.get c) es + e.edges c (t.phaseA.get c) := by
    rw [edgesIn_append, htlevel]
    rfl
  rw [hsum] at hbound
  rw [hzero, zero_add] at htcnt
  rw [hucnt, htcnt, ← BitVec.ofNat_add, toInt_ofNat_of_lt (by decide) hbound,
    toInt_ofNat_of_lt (by decide) (lt_of_le_of_lt (Nat.le_add_right _ _) hbound)]
  exact_mod_cast Nat.le_add_right _ _

/-! ### Between a reset and a snapshot (R107) -/

theorem Event.clears_eq_true {c : Channel} {e : Event} (h : e.clears c = true) :
    e = .reset ∨ ∃ sel, e.instr = some (.encReset sel) ∧ selects sel c = true := by
  unfold Event.clears at h
  split at h
  · exact .inl rfl
  · next sel _ hinstr => exact .inr ⟨sel, hinstr, h⟩
  · cases h

theorem Event.snapshots_eq_true {c : Channel} {e : Event} (h : e.snapshots c = true) :
    ∃ sel, e.instr = some (.encSnap sel) ∧ selects sel c = true := by
  unfold Event.snapshots at h
  split at h
  · next sel hinstr => exact ⟨sel, hinstr, h⟩
  · cases h

theorem runEvent_clears {c : Channel} {e : Event} (h : e.clears c = true) (s : State) :
    ∃ t, runEvent e s = .next t ∧ t.schedule = s.schedule ∧ t.phaseA = s.phaseA ∧ t.block.cnt.get c = 0 := by
  rcases Event.clears_eq_true h with rfl | ⟨sel, hinstr, hsel⟩
  · exact ⟨_, rfl, rfl, rfl, Block.reset_cnt_get c _ _⟩
  · exact ⟨_, runEvent_of_instr hinstr s, rfl, rfl, resetCounters_cnt_get c _ hsel⟩

theorem runEvent_snapshots {c : Channel} {e : Event} (h : e.snapshots c = true) (s : State) :
    ∃ t, runEvent e s = .next t ∧ t.block.snap.get c = s.block.cnt.get c := by
  obtain ⟨sel, hinstr, hsel⟩ := Event.snapshots_eq_true h
  exact ⟨_, runEvent_of_instr hinstr s, snapCounters_snap_get c _ hsel⟩

/-- Settles O39: the reset leaves the count 0 and the level as it was, the steps between add their edges, and the
snapshot copies the count. -/
theorem snapshotCountsEdgesExactly : Obligations.SnapshotCountsEdgesExactly := by
  intro s c first last mid rest hsched _ hclears hsnaps hmid
  obtain ⟨t, htrun, htsched, htlevel, htcnt⟩ :=
    runEvent_clears hclears { s with schedule := mid ++ last :: rest, resp := none }
  obtain ⟨u, hurun, husched, -, hucnt⟩ := core_run_counts hmid htsched
  obtain ⟨v, hvrun, hvsnap⟩ := runEvent_snapshots hsnaps { u with schedule := rest, resp := none }
  have hfirst : step s = .next t := (step_of_cons hsched).trans htrun
  have hlast : step u = .next v := (step_of_cons husched).trans hvrun
  have hrun : Sys2Proof.core.run (mid.length + 2) s = .next v := calc
    Sys2Proof.core.run (mid.length + 2) s = Sys2Proof.core.run (mid.length + 1) t := core_run_succ _ hfirst
    _ = Sys2Proof.core.run 1 u := core_run_add _ 1 hurun
    _ = .next v := core_run_succ 0 hlast
  refine ⟨v, hrun, ?_⟩
  rw [hvsnap, hucnt, htcnt, htlevel, zero_add, BitVec.toInt_ofNat']

end Sys2Proof.Machine
end

section
/-! The obligations of 41_motor.md: what DRIVE and STOP do to their channel, and the safety of the outputs at reset and
along every step. -/

namespace Sys2Proof.Machine

/-! ### The outputs of a driven channel (R121 to R124) -/

/-- `rev` of R122 with DIR as a proposition. -/
theorem driveRev_eq_xor (dir : Dir) (inv : Bool) : driveRev dir inv = (decide (dir = .rev) ^^ inv) := by
  cases dir <;> rfl

/-- The motor runs in reverse iff DIR and INV differ; MAG has no part in it. -/
theorem driveRev_eq_true_iff (dir : Dir) (inv : Bool) : driveRev dir inv = true ↔ ¬(dir = .rev ↔ inv = true) := by
  rw [driveRev_eq_xor, Bool.xor_iff_ne, ne_eq, ← Bool.coe_iff_coe, decide_eq_true_iff]

theorem appliedMagnitude_eq_max_min (m : Nat) (mag : Int) : appliedMagnitude m mag = max 0 (min mag m) :=
  clamp_eq_max_min (Int.natCast_nonneg m)

/-- The echo of DRIVE is wide enough for the applied magnitude. -/
theorem toNat_ofInt_appliedMagnitude {m : Nat} (hm : m ≤ 32767) (mag : Int) :
    ((BitVec.ofInt 32 (appliedMagnitude m mag)).toNat : Int) = appliedMagnitude m mag := by
  obtain ⟨hlo, hhi⟩ := appliedMagnitude_bounds m mag
  exact toNat_ofInt_of_lt hlo (by norm_num; omega)

theorem drivenMotor_eq (m : Nat) (dir : Dir) (inv : Bool) (mag : Int) :
    drivenMotor m dir inv mag = ⟨!(decide (dir = .rev) ^^ inv), decide (dir = .rev) ^^ inv,
      BitVec.ofInt 16 (max 0 (min mag m))⟩ := by
  rw [drivenMotor, driveRev_eq_xor, appliedMagnitude_eq_max_min]

theorem drivenMotor_in1 (m : Nat) (dir : Dir) (inv : Bool) (mag : Int) :
    (drivenMotor m dir inv mag).in1 = !(drivenMotor m dir inv mag).in2 := rfl

/-- A driven channel always has a direction pin asserted (R124). -/
theorem drivenMotor_ne_stopped (m : Nat) (dir : Dir) (inv : Bool) (mag : Int) :
    drivenMotor m dir inv mag ≠ Motor.stopped := by
  intro h
  have hin1 := drivenMotor_in1 m dir inv mag
  rw [h] at hin1
  cases hin1

/-! ### The commands (R122, R126) -/

@[simp] theorem setMotor_motor_get {cw tw : Nat} (c : Channel) (m : Motor) (b : Block cw tw) :
    (setMotor c m b).motor.get c = m := Pair.get_set_same _ _ _

theorem exec_drive (ch : Channel) (dir : Dir) (inv : Bool) (mag : Int) (s : State) :
    exec (.drive ch dir inv mag) s = .next { s with
      block := setMotor ch (drivenMotor Config.maxIntensity dir inv mag) s.block
      resp := some ⟨false, BitVec.ofInt 32 (appliedMagnitude Config.maxIntensity mag)⟩ } := rfl

theorem exec_stop (ch : Channel) (s : State) :
    exec (.stop ch) s = .next { s with
      block := setMotor ch Motor.stopped s.block
      resp := some ⟨false, 0⟩ } := rfl

/-- Settles O19: `exec_drive` with the clamp and `rev` written out. -/
theorem driveSetsItsChannel : Obligations.DriveSetsItsChannel := by
  intro ch dir inv mag s
  rw [exec_drive, drivenMotor_eq, appliedMagnitude_eq_max_min]
  rfl

/-- Settles O20: the duty register and the echo both hold the applied magnitude, and `rev` is independent of it. -/
theorem driveClampsMagnitude : Obligations.DriveClampsMagnitude := by
  intro ch dir inv mag s
  have hduty := drivenMotor_duty Config.maxIntensity Config.maxIntensity_le dir inv mag
  have hdata := toNat_ofInt_appliedMagnitude Config.maxIntensity_le mag
  have hclamp := appliedMagnitude_eq_max_min Config.maxIntensity mag
  refine ⟨_, _, exec_drive ch dir inv mag s, rfl, ?_⟩
  rw [setMotor_motor_get]
  refine ⟨by omega, fun _ => by omega, fun _ => by omega, fun _ _ => by omega, ?_, driveRev_eq_true_iff dir inv⟩
  rw [drivenMotor_in1, Bool.not_eq_true', ← Bool.not_eq_true]
  exact (not_congr (driveRev_eq_true_iff dir inv)).trans not_not

/-- Settles O21: each row is `driveRev` of its DIR and INV. -/
theorem driveDirectionTable : Obligations.DriveDirectionTable := by
  intro ch mag s
  refine ⟨_, _, _, _, exec_drive ch .fwd false mag s, exec_drive ch .fwd true mag s, exec_drive ch .rev false mag s,
    exec_drive ch .rev true mag s, ?_⟩
  simp only [setMotor_motor_get]
  exact ⟨⟨rfl, rfl⟩, ⟨rfl, rfl⟩, ⟨rfl, rfl⟩, ⟨rfl, rfl⟩⟩

/-- Settles O22: the clamp of a MAG of at most 0 is 0, and a driven channel is never a stopped one. -/
theorem zeroDriveIsNotStop : Obligations.ZeroDriveIsNotStop := by
  intro ch dir inv mag s hmag
  refine ⟨_, _, exec_drive ch dir inv mag s, exec_stop ch s, ?_⟩
  simp only [setMotor_motor_get]
  have hzero : max 0 (min mag Config.maxIntensity) = 0 := by omega
  exact ⟨by rw [drivenMotor_eq, hzero]; rfl, rfl, drivenMotor_ne_stopped _ _ _ _⟩

/-- Settles O23: `exec_stop` with the stopped outputs written out. -/
theorem stopDeassertsItsChannel : Obligations.StopDeassertsItsChannel := exec_stop

/-! ### Safe outputs (R129) -/

theorem Motor.stopped_safe (m : Nat) : Motor.stopped.Safe m := ⟨nofun, Nat.zero_le m⟩

/-- The pins of a driven channel are complements, and its duty is the clamped magnitude. -/
theorem drivenMotor_safe {m : Nat} (hm : m ≤ 32767) (dir : Dir) (inv : Bool) (mag : Int) :
    (drivenMotor m dir inv mag).Safe m := by
  constructor
  · rw [drivenMotor_in1]
    simp
  · have hduty := drivenMotor_duty m hm dir inv mag
    have hhi := (appliedMagnitude_bounds m mag).2
    omega

theorem toNat_ofInt_appliedAngle_le (angle : Int) : (BitVec.ofInt 8 (appliedAngle angle)).toNat ≤ 180 := by
  obtain ⟨hlo, hhi⟩ := appliedAngle_bounds angle
  have hval : ((BitVec.ofInt 8 (appliedAngle angle)).toNat : Int) = appliedAngle angle :=
    toNat_ofInt_of_lt hlo (by norm_num; omega)
  omega

/-- Reset values with no pulse under way are safe, whatever the rest of the state is. -/
theorem State.Safe.of_reset {s : State} (hblock : s.block = Block.reset Config.countW Config.timeW)
    (hframe : s.frameAngle = none) : s.Safe where
  motor c := by
    rw [hblock]
    cases c <;> exact Motor.stopped_safe _
  servo := by
    rw [hblock]
    exact Nat.zero_le _
  servoOff _ := by
    rw [hblock]
    rfl
  frame a h := by
    rw [hframe] at h
    cases h

/-- Safety reads the outputs only: a step that leaves them as they are keeps it. The default of each hypothesis is that
the step does not write the field at all. -/
theorem State.Safe.of_outputs_eq {s t : State} (h : s.Safe) (hmotor : t.block.motor = s.block.motor := by rfl)
    (hangle : t.block.servoAngle = s.block.servoAngle := by rfl)
    (hen : t.block.servoEn = s.block.servoEn := by rfl) (hframe : t.frameAngle = s.frameAngle := by rfl) : t.Safe where
  motor := hmotor ▸ h.motor
  servo := hangle ▸ h.servo
  servoOff := hangle ▸ hen ▸ h.servoOff
  frame := hframe ▸ hen ▸ h.frame

/-- Safe outputs written to one channel keep the state safe: the other channel's stay. -/
theorem State.Safe.withBlock_setMotor {s : State} (h : s.Safe) (c : Channel) {m : Motor}
    (hm : m.Safe Config.maxIntensity) : (s.withBlock (setMotor c m s.block)).Safe where
  motor d := by
    by_cases hcd : c = d
    · subst hcd
      rwa [State.withBlock_block, setMotor_motor_get]
    · rw [State.withBlock_block, setMotor, Pair.get_set_ne _ hcd]
      exact h.motor d
  servo := h.servo
  servoOff := h.servoOff
  frame := h.frame

/-- A clamped angle is within its bound and its output enabled; a pulse under way keeps its angle. -/
theorem State.Safe.withBlock_setServo {s : State} (h : s.Safe) (angle : Int) :
    (s.withBlock (setServo angle s.block)).Safe where
  motor := h.motor
  servo := toNat_ofInt_appliedAngle_le angle
  servoOff := nofun
  frame a ha := ⟨(h.frame a ha).1, rfl⟩

/-- A new frame carries the commanded angle, and has a pulse only while the output is enabled. -/
theorem servoFrameStep_safe {s t : State} (hs : s.Safe) (h : servoFrameStep s = .next t) : t.Safe := by
  cases h
  exact {
    motor := hs.motor
    servo := hs.servo
    servoOff := hs.servoOff
    frame := fun a ha => by
      obtain ⟨hen, ⟨⟩⟩ := Option.ite_none_right_eq_some.1 ha
      exact ⟨hs.servo, hen⟩ }

/-- Only DRIVE, STOP and SERVO_SET write outputs, and each writes safe ones. -/
theorem exec_safe {i : Instr} {s t : State} (hs : s.Safe) (h : exec i s = .next t) : t.Safe := by
  cases i with
  | drive ch dir inv mag =>
    cases h
    exact (hs.withBlock_setMotor ch (drivenMotor_safe Config.maxIntensity_le dir inv mag)).of_outputs_eq
  | stop ch =>
    cases h
    exact (hs.withBlock_setMotor ch (Motor.stopped_safe _)).of_outputs_eq
  | servoSet angle =>
    cases h
    exact (hs.withBlock_setServo angle).of_outputs_eq
  | rdreg idx =>
    cases (execRdreg_eq_next idx s).symm.trans h
    exact hs.of_outputs_eq
  | _ =>
    cases h
    exact hs.of_outputs_eq

theorem runCommand_safe {w : Word} {s t : State} (hs : s.Safe) (h : runCommand w s = .next t) : t.Safe := by
  cases hd : decode w with
  | ok i => exact exec_safe hs ((runCommand_ok hd s).symm.trans h)
  | error e =>
    cases (runCommand_error hd s).symm.trans h
    exact hs.of_outputs_eq

/-- Beside the commands, only a servo frame and `Reset` write outputs. -/
theorem runEvent_safe {e : Event} {s t : State} (hs : s.Safe) (h : runEvent e s = .next t) : t.Safe := by
  cases hw : e.word with
  | some w => exact runCommand_safe hs ((runEvent_of_word hw s).symm.trans h)
  | none =>
    cases e with
    | command w => cases hw
    | link bytes => cases (runEvent_link_refused hw s).symm.trans h
    | encEdge c =>
      cases (runEvent_encEdge c s).symm.trans h
      exact hs.of_outputs_eq
    | encBurst c k =>
      cases (runEvent_encBurst c k s).symm.trans h
      exact hs.of_outputs_eq
    | phaseA c v =>
      cases (runEvent_phaseA c v s).symm.trans h
      exact hs.of_outputs_eq
    | servoFrame => exact servoFrameStep_safe hs h
    | reset =>
      cases h
      exact .of_reset rfl rfl
    | _ =>
      cases h
      exact hs.of_outputs_eq

/-- Settles O41: taking an event off the schedule and idling write no output, and every event keeps them safe. -/
theorem everyStepKeepsOutputsSafe : Obligations.EveryStepKeepsOutputsSafe := by
  intro s t hs h
  cases hsched : s.schedule with
  | nil =>
    cases (step_of_nil hsched).symm.trans h
    exact hs.of_outputs_eq
  | cons e rest => exact runEvent_safe hs.of_outputs_eq ((step_of_cons hsched).symm.trans h)

/-- Settles O42: the machine's reset state has the block at its reset values and no pulse under way. -/
theorem outputsSafeAtReset : Obligations.OutputsSafeAtReset := .of_reset rfl rfl

end Sys2Proof.Machine
end

section
/-! The obligations of 42_servo.md: what SERVO_SET does to the servo registers, and when its pin takes a new angle. -/

namespace Sys2Proof.Machine

/-! ### SERVO_SET (R140, R141) -/

theorem appliedAngle_eq_max_min (angle : Int) : appliedAngle angle = max 0 (min angle 180) :=
  clamp_eq_max_min (by decide)

theorem exec_servoSet (angle : Int) (s : State) :
    exec (.servoSet angle) s = .next { s with
      block := setServo angle s.block
      resp := some ⟨false, BitVec.ofInt 32 (appliedAngle angle)⟩ } := rfl

/-- Settles O24: `exec_servoSet` with the clamp written out. -/
theorem servoSetClampsAngle : Obligations.ServoSetClampsAngle := by
  intro angle s
  rw [exec_servoSet, setServo, appliedAngle_eq_max_min]

/-! ### The servo pin (R143) -/

theorem ports_servoPwm_of_disabled {s : State} (h : s.block.servoEn = false) : (ports s).servoPwm = none := by
  simp [ports, servoPort, h]

theorem ports_servoPwm_of_enabled {s : State} (h : s.block.servoEn = true) :
    (ports s).servoPwm = s.frameAngle.map (pulseWidth Config.servoMinPulse Config.servoMaxPulse) := by
  simp [ports, servoPort, h]

theorem servoFrameStep_of_enabled {s : State} (h : s.block.servoEn = true) :
    servoFrameStep s = .next { s with frameAngle := some s.block.servoAngle } := by
  simp [servoFrameStep, h]

/-- Settles O48: a frame latches the commanded angle, from which alone an enabled pin takes its pulse, and SERVO_SET
leaves the latched angle as it is. -/
theorem servoPulseChangesAtFrames : Obligations.ServoPulseChangesAtFrames := by
  refine ⟨fun _ => ports_servoPwm_of_disabled, fun s rest hsched hen => ?frame, fun s angle hen => ?set⟩
  case frame =>
    have hstep : step s = servoFrameStep { s with schedule := rest, resp := none } := step_of_cons hsched
    exact ⟨_, hstep.trans (servoFrameStep_of_enabled hen), rfl, ports_servoPwm_of_enabled hen⟩
  case set =>
    exact ⟨_, exec_servoSet angle s, (ports_servoPwm_of_enabled rfl).trans (ports_servoPwm_of_enabled hen).symm⟩

end Sys2Proof.Machine
end

section
/-! The obligations of 43_debounce.md: the time base, one poll row by row, DEB_CLEAR, and what a run of polls that sample
one level reports. -/

namespace Sys2Proof.Machine

/-! ### The environment's steps (R160, R161) -/

/-- Settles O34: the step is `tickStep`, and the time base adds as a bit vector of its width. -/
theorem tickAdvancesTime : Obligations.TickAdvancesTime :=
  fun s _ hsched => ⟨s.block.time + 1, step_of_cons hsched, BitVec.toNat_add _ _⟩

/-- Settles O35: the step is `switchLevelStep`. -/
theorem switchLevelSetsRawLevel : Obligations.SwitchLevelSetsRawLevel := fun _ _ _ hsched => step_of_cons hsched

/-! ### DEB_CLEAR (R170) -/

/-- Settles O26: the equation is `clearDebouncer` with its fields written out. -/
theorem debClearReturnsToReleased : Obligations.DebClearReturnsToReleased := fun _ => rfl

/-! ### One poll (R162, R163) -/

/-- RESP_DATA of a poll that samples r (R162). -/
def pollWord {cw tw : Nat} (window : Nat) (r : Bool) (b : Block cw tw) : Word :=
  pollData (pollRose window r b) (pollFell window r b) (pollStable window r b)

theorem exec_debPoll (s : State) :
    exec .debPoll s = .next { s with
      block := pollBlock Config.debounceW s.swRaw s.block
      resp := some ⟨false, pollWord Config.debounceW s.swRaw s.block⟩ } := rfl

/-- The rising event is bit 2 of a poll's data (R162). -/
@[simp] theorem reportsRise_pollData (err rose fell stable : Bool) :
    reportsRise ⟨err, pollData rose fell stable⟩ = rose := by
  simp only [reportsRise, pollData, BitVec.getLsbD_or, getLsbD_field]
  simp

/-- Bit 0 of a poll's data is the stable value (R162). -/
theorem getLsbD_zero_pollData (rose fell stable : Bool) : (pollData rose fell stable).getLsbD 0 = stable := by
  simp only [pollData, BitVec.getLsbD_or, getLsbD_field]
  simp

/-- Whether a response reports the event that makes v the stable value: rising for 1, falling for 0. -/
def reportsTo : Bool → Response → Bool
  | false => reportsFall
  | true => reportsRise

section Poll
variable {cw tw : Nat} {window : Nat} {r : Bool} {b : Block cw tw}

/-- The last row of R163: only a level that is not stable and that the poll before sampled too is promoted, once it has
persisted for the window. -/
theorem pollPromotes_eq_true_iff (hw : 1 ≤ window) :
    pollPromotes window r b = true ↔
      r ≠ b.debStable ∧ r = b.debLast ∧ window ≤ (b.time - b.debSince).toNat := by
  by_cases hlast : r = b.debLast
  · simp [pollPromotes, pollElapsed, pollSince, hlast, and_comm]
  · have hwindow : ¬ window ≤ 0 := by omega
    simp [pollPromotes, pollElapsed, pollSince, hlast, hwindow]

theorem pollPromotes_of_stable (h : r = b.debStable) : pollPromotes window r b = false := by
  simp [pollPromotes, h]

theorem pollStable_of_promotes (h : pollPromotes window r b = true) : pollStable window r b = r := if_pos h

theorem pollStable_of_not_promotes (h : pollPromotes window r b = false) :
    pollStable window r b = b.debStable := by
  simp [pollStable, h]

theorem pollSince_of_last (h : r = b.debLast) : pollSince r b = b.debSince := if_pos h

theorem pollSince_of_ne_last (h : r ≠ b.debLast) : pollSince r b = b.time := if_neg h

/-- A poll that promotes answers the new stable value and its event. -/
theorem pollWord_of_promotes (h : pollPromotes window r b = true) :
    pollWord window r b = if r then 5 else 2 := by
  rw [pollWord, pollRose, pollFell, h, pollStable_of_promotes h]
  cases r <;> decide

/-- A poll that does not promote answers the stable value alone. -/
theorem pollWord_of_not_promotes (h : pollPromotes window r b = false) :
    pollWord window r b = if b.debStable then 1 else 0 := by
  rw [pollWord, pollRose, pollFell, h, pollStable_of_not_promotes h, Bool.false_and, Bool.false_and]
  cases b.debStable <;> decide

/-- A poll reports an event exactly when it promotes, and the event is that of its sample. -/
theorem reportsTo_pollWord (v err : Bool) :
    reportsTo v ⟨err, pollWord window r b⟩ = (pollPromotes window r b && r == v) := by
  cases v with
  | false => simp [reportsTo, pollWord, pollFell]
  | true => simp [reportsTo, pollWord, pollRose]

/-- The first four rows of R163: without a promotion the stable value stays and no event bit is set. -/
theorem poll_of_not_promotes (h : pollPromotes window r b = false) :
    pollStable window r b = b.debStable ∧ (pollWord window r b).extractLsb' 1 31 = 0 := by
  refine ⟨pollStable_of_not_promotes h, ?_⟩
  rw [pollWord_of_not_promotes h]
  cases b.debStable <;> decide

/-- The last row of R163: the sample becomes the stable value, and its event bit alone is set. -/
theorem poll_of_promotes (h : pollPromotes window r b = true) :
    pollStable window r b = r ∧
      (pollWord window r b).extractLsb' 1 31 = if r then 2#31 else 1#31 := by
  refine ⟨pollStable_of_promotes h, ?_⟩
  rw [pollWord_of_promotes h]
  cases r <;> decide

end Poll

/-- The block's window is less than half the range of its time base (R10). -/
theorem two_mul_debounceW_lt : 2 * Config.debounceW < 2 ^ Config.timeW := by
  rw [show 2 ^ Config.timeW = 2 * 2 ^ (Config.timeW - 1) by decide]
  exact Nat.mul_lt_mul_of_pos_left Config.debounceW_lt Nat.zero_lt_two

/-- `pollPromotes_eq_true_iff` for the block's own window. -/
theorem promotes_iff {r : Bool} {b : Block Config.countW Config.timeW} :
    pollPromotes Config.debounceW r b = true ↔
      r ≠ b.debStable ∧ r = b.debLast ∧ Config.debounceW ≤ (b.time - b.debSince).toNat :=
  pollPromotes_eq_true_iff Config.debounceW_pos

/-- Settles O25: the last row is the one that promotes, and the sample's relation to the last one decides on the start
of the candidate. -/
theorem pollFollowsStateMachine : Obligations.PollFollowsStateMachine := by
  intro s
  refine ⟨pollStable Config.debounceW s.swRaw s.block, pollSince s.swRaw s.block,
    pollWord Config.debounceW s.swRaw s.block, rfl, ?_, ?_, ?_, ?_, ?_, getLsbD_zero_pollData _ _ _⟩
  · intro hstable hlast
    exact ⟨pollSince_of_last hlast, poll_of_not_promotes (pollPromotes_of_stable hstable)⟩
  · intro hstable hlast
    exact ⟨pollSince_of_ne_last hlast, poll_of_not_promotes (pollPromotes_of_stable hstable)⟩
  · intro _ hlast
    exact ⟨pollSince_of_ne_last hlast,
      poll_of_not_promotes (Bool.eq_false_iff.2 fun hp => hlast (promotes_iff.1 hp).2.1)⟩
  · intro _ hlast hyoung
    exact ⟨pollSince_of_last hlast,
      poll_of_not_promotes (Bool.eq_false_iff.2 fun hp => hyoung.not_ge (promotes_iff.1 hp).2.2)⟩
  · intro hstable hlast hdue
    exact ⟨pollSince_of_last hlast, poll_of_promotes (promotes_iff.2 ⟨hstable, hlast, hdue⟩)⟩

/-- Settles O44: exactly DEBOUNCE_W ticks are enough for the last row of R163. -/
theorem windowBoundaryIsInclusive : Obligations.WindowBoundaryIsInclusive := by
  intro s hlast hstable hel
  have hp : pollPromotes Config.debounceW s.swRaw s.block = true := promotes_iff.2 ⟨hstable, hlast, hel.ge⟩
  exact ⟨_, exec_debPoll s, pollStable_of_promotes hp, by rw [pollWord_of_promotes hp]⟩

/-- Settles O43: an event comes from the last row of R163 only, whose sample is then stable, and a stable sample is
never promoted. -/
theorem oneEventPerTransition : Obligations.OneEventPerTransition := by
  intro s t u v r q ht hr hreport hstable hraw hv hq
  cases ht
  cases hr
  cases hv
  cases hq
  have hp : pollPromotes Config.debounceW s.swRaw s.block = true := by
    obtain ⟨w, hw⟩ : ∃ w, reportsTo w ⟨false, pollWord Config.debounceW s.swRaw s.block⟩ = true :=
      hreport.elim (⟨false, ·⟩) (⟨true, ·⟩)
    rw [reportsTo_pollWord] at hw
    exact (Bool.and_eq_true_iff.1 hw).1
  obtain ⟨hne, hlast, hdue⟩ := promotes_iff.1 hp
  have hsettled : u.swRaw = u.block.debStable :=
    hraw.trans ((pollStable_of_promotes hp).symm.trans hstable.symm)
  have hquiet : pollPromotes Config.debounceW u.swRaw u.block = false := pollPromotes_of_stable hsettled
  have hsilent (w : Bool) : reportsTo w ⟨false, pollWord Config.debounceW u.swRaw u.block⟩ = false := by
    rw [reportsTo_pollWord, hquiet, Bool.false_and]
  exact ⟨hne, hlast, hdue, pollStable_of_promotes hp, hsilent false, hsilent true,
    pollStable_of_not_promotes hquiet, hsettled, fun hulast => hraw.trans hulast.symm⟩

/-! ### One step of a run, as the debouncer sees it -/

theorem eventCount_succ {s t : State} {e : Event} {rest : List Event} (hsched : s.schedule = e :: rest)
    (hstep : step s = .next t) (reports : Response → Bool) (n : Nat) :
    eventCount reports (n + 1) s =
      (if e.instr = some .debPoll ∧ t.resp.any reports = true then 1 else 0) + eventCount reports n t := by
  simp only [eventCount, hstep, hsched, List.head?_cons, Option.bind_some]

theorem Event.instr_ne_debClear {e : Event} (h : e.clearsDebouncer = false) : e.instr ≠ some .debClear := by
  intro hi
  cases e with
  | reset => cases hi
  | _ => simp [Event.clearsDebouncer, hi] at h

theorem Event.rawAfter_of_ne_switchLevel {e : Event} (h : ∀ v, e ≠ .switchLevel v) (level : Bool) :
    e.rawAfter level = level := by
  cases e with
  | switchLevel v => exact absurd rfl (h v)
  | _ => rfl

theorem Event.rawAfter_of_instr {e : Event} {i : Instr} (h : e.instr = some i) (level : Bool) :
    e.rawAfter level = level :=
  Event.rawAfter_of_ne_switchLevel (by rintro v rfl; cases h) level

/-- The debouncer's registers are in t as they are in s, and the raw level and the time have moved as the event e moves
them: what a step between two polls does (R165). -/
structure Event.LeavesDebouncer (e : Event) (s t : State) : Prop where
  raw : t.swRaw = e.rawAfter s.swRaw
  stable : t.block.debStable = s.block.debStable
  last : t.block.debLast = s.block.debLast
  since : t.block.debSince = s.block.debSince
  time : t.block.time = if e = .tick then s.block.time + 1 else s.block.time

/-- What the access matrix does not list for an event, the event leaves. -/
theorem runEvent_leavesDebouncer {e : Event} (hstep : e.isStep = true) (hclear : e.clearsDebouncer = false)
    (hpoll : e.instr ≠ some .debPoll) (s : State) :
    ∃ t, runEvent e s = .next t ∧ t.schedule = s.schedule ∧ e.LeavesDebouncer s t := by
  obtain ⟨t, hrun, hsched⟩ := runEvent_enabled hstep s
  have hmatrix := runEvent_accessMatrix hrun
  have hreset : e ≠ .reset := by rintro rfl; cases hclear
  have hdeb := not_imp_not.2 hmatrix.debouncer (by simp [hreset, hpoll, Event.instr_ne_debClear hclear])
  simp only [not_or, not_not] at hdeb
  obtain ⟨hstable, hlast, hsince⟩ := hdeb
  refine ⟨t, hrun, hsched, ?_, hstable, hlast, hsince, ?_⟩
  · by_cases hraw : ∃ v, e = .switchLevel v
    · obtain ⟨v, rfl⟩ := hraw
      cases hrun
      rfl
    · rw [Event.rawAfter_of_ne_switchLevel (not_exists.1 hraw)]
      exact of_not_not fun hne => hraw (hmatrix.swRaw hne)
  · split
    · next htick => subst htick; cases hrun; rfl
    · next htick => exact of_not_not fun hne => (hmatrix.time hne).elim htick hreset

/-! ### Runs whose polls sample one level (R165, R166) -/

/-- Over n steps from s exactly one event is reported if `due` holds, that of the level r, which is then the stable
value; otherwise none is, and the stable value stays. -/
def DebouncesTo (n : Nat) (s : State) (r due : Bool) : Prop :=
  ∃ t : State, Sys2Proof.core.run n s = .next t ∧
    (∀ v, eventCount (reportsTo v) n s = if due = true ∧ r = v then 1 else 0) ∧
    t.block.debStable = if due = true then r else s.block.debStable

theorem DebouncesTo.zero (s : State) (r : Bool) : DebouncesTo 0 s r false :=
  ⟨s, rfl, fun _ => rfl, rfl⟩

section FirstStep
variable {s : State} {e : Event} {rest : List Event} {n : Nat} {r due : Bool} (hsched : s.schedule = e :: rest)
include hsched

/-- A first step that reports nothing and keeps the stable value. -/
theorem DebouncesTo.of_silent_step {u : State} (hstep : step s = .next u)
    (hsilent : ∀ v, ¬(e.instr = some .debPoll ∧ u.resp.any (reportsTo v) = true))
    (hstable : u.block.debStable = s.block.debStable) (h : DebouncesTo n u r due) : DebouncesTo (n + 1) s r due := by
  obtain ⟨t, hrun, hevents, htstable⟩ := h
  refine ⟨t, (core_run_succ n hstep).trans hrun, fun v => ?_, by rw [htstable, hstable]⟩
  rw [eventCount_succ hsched hstep, if_neg (hsilent v), Nat.zero_add, hevents]

/-- A first step that is neither a poll nor a clear. -/
theorem DebouncesTo.of_leaves (he : e.isStep = true) (hclear : e.clearsDebouncer = false)
    (hpoll : e.instr ≠ some .debPoll)
    (h : ∀ u, u.schedule = rest → e.LeavesDebouncer s u → DebouncesTo n u r due) : DebouncesTo (n + 1) s r due := by
  obtain ⟨u, hrun, husched, hleaves⟩ :=
    runEvent_leavesDebouncer he hclear hpoll { s with schedule := rest, resp := none }
  have hleaves : e.LeavesDebouncer s u := { hleaves with }
  exact .of_silent_step hsched ((step_of_cons hsched).trans hrun) (fun _ hp => hpoll hp.1) hleaves.stable
    (h u husched hleaves)

theorem step_of_debPoll (hpoll : e.instr = some .debPoll) :
    ∃ u, step s = .next u ∧ u.schedule = rest ∧ u.swRaw = s.swRaw ∧
      u.block = pollBlock Config.debounceW s.swRaw s.block ∧
      u.resp = some ⟨false, pollWord Config.debounceW s.swRaw s.block⟩ :=
  ⟨_, (step_of_cons hsched).trans ((runEvent_of_instr hpoll _).trans (exec_debPoll _)), rfl, rfl, rfl, rfl⟩

/-- A first step that polls without promoting. -/
theorem DebouncesTo.of_poll (hpoll : e.instr = some .debPoll)
    (hp : pollPromotes Config.debounceW s.swRaw s.block = false)
    (h : ∀ u : State, u.schedule = rest → u.swRaw = s.swRaw →
      u.block = pollBlock Config.debounceW s.swRaw s.block → DebouncesTo n u r due) :
    DebouncesTo (n + 1) s r due := by
  obtain ⟨u, hstep, husched, huraw, hublock, huresp⟩ := step_of_debPoll hsched hpoll
  refine .of_silent_step hsched hstep (fun v hreport => ?_)
    (hublock ▸ pollStable_of_not_promotes hp) (h u husched huraw hublock)
  simp [huresp, reportsTo_pollWord, hp] at hreport

/-- A first step that polls and promotes, with nothing reported after it. -/
theorem DebouncesTo.of_promotion (hpoll : e.instr = some .debPoll)
    (hp : pollPromotes Config.debounceW s.swRaw s.block = true)
    (h : ∀ u : State, u.schedule = rest → u.swRaw = s.swRaw →
      u.block = pollBlock Config.debounceW s.swRaw s.block → DebouncesTo n u s.swRaw false) :
    DebouncesTo (n + 1) s s.swRaw true := by
  obtain ⟨u, hstep, husched, huraw, hublock, huresp⟩ := step_of_debPoll hsched hpoll
  obtain ⟨t, hrun, hevents, hstable⟩ := h u husched huraw hublock
  refine ⟨t, (core_run_succ n hstep).trans hrun, fun v => ?_,
    hstable.trans (hublock ▸ pollStable_of_promotes hp)⟩
  rw [eventCount_succ hsched hstep, hevents]
  simp [hpoll, huresp, reportsTo_pollWord, hp]

end FirstStep

/-! ### The premises on a run, event by event -/

theorem pollsSample_cons {r level : Bool} {e : Event} {es : List Event} (h : pollsSample r level (e :: es) = true) :
    e.clearsDebouncer = false ∧ (e.instr = some .debPoll → level = r) ∧
      pollsSample r (e.rawAfter level) es = true := by
  simp only [pollsSample, Bool.and_eq_true, Bool.not_eq_true', Bool.or_eq_true, decide_eq_true_eq, beq_iff_eq] at h
  obtain ⟨⟨hclear, hlevel⟩, hes⟩ := h
  exact ⟨hclear, fun hpoll => hlevel.resolve_left (not_not.2 hpoll), hes⟩

theorem Event.holdsSwitch_eq_true {r : Bool} {e : Event} (h : e.holdsSwitch r = true) :
    e.clearsDebouncer = false ∧ e.rawAfter r = r := by
  unfold Event.holdsSwitch at h
  split at h
  · exact ⟨rfl, eq_of_beq h⟩
  · cases h
  · cases h
  · next hswitch hreset hclear =>
    refine ⟨?_, Event.rawAfter_of_ne_switchLevel hswitch r⟩
    unfold Event.clearsDebouncer
    split
    · exact (hreset rfl).elim
    · next hi => exact (hclear hi).elim
    · rfl

theorem pollsSample_of_holdsSwitch {r : Bool} {run : List Event} (h : ∀ e ∈ run, e.holdsSwitch r = true) :
    pollsSample r r run = true := by
  induction run with
  | nil => rfl
  | cons e es ih =>
    obtain ⟨he, hes⟩ := List.forall_mem_cons.1 h
    obtain ⟨hclear, hraw⟩ := Event.holdsSwitch_eq_true he
    simp [pollsSample, hraw, hclear, ih hes]

theorem Event.ne_tick_of_instr {e : Event} {i : Instr} (h : e.instr = some i) : e ≠ .tick := by
  rintro rfl
  cases h

section Due
variable {e : Event} {es : List Event}

theorem pollDue_cons_of_poll (hpoll : e.instr = some .debPoll) (window k : Nat) :
    pollDue window k (e :: es) = (decide (window ≤ k) || pollDue window k es) := by
  simp [pollDue, hpoll, Event.ne_tick_of_instr hpoll]

theorem pollDue_cons_of_not_poll (hpoll : e.instr ≠ some .debPoll) (window k : Nat) :
    pollDue window k (e :: es) = pollDue window (if e = .tick then k + 1 else k) es := by
  simp [pollDue, hpoll]

theorem pollsInTime_cons_of_poll (hpoll : e.instr = some .debPoll) (bound j : Nat) :
    pollsInTime bound j (e :: es) = pollsInTime bound 0 es := by
  simp [pollsInTime, hpoll, Event.ne_tick_of_instr hpoll]

theorem pollsInTime_cons_of_not_poll (hpoll : e.instr ≠ some .debPoll) {bound j : Nat} (hj : j < bound)
    (h : pollsInTime bound j (e :: es) = true) :
    (if e = .tick then j + 1 else j) < bound ∧ pollsInTime bound (if e = .tick then j + 1 else j) es = true := by
  by_cases htick : e = .tick
  · simpa [pollsInTime, htick] using h
  · simpa [pollsInTime, htick, hpoll, hj] using h

end Due

/-- The ticks of a run are those of its first event and of the rest, added to any number before them. -/
theorem add_ticksIn_cons (k : Nat) (e : Event) (es : List Event) :
    k + ticksIn (e :: es) = (if e = .tick then k + 1 else k) + ticksIn es := by
  by_cases htick : e = .tick
  · simp [ticksIn, htick, Nat.add_assoc, Nat.add_comm]
  · simp [ticksIn, htick]

/-- No poll comes as late as the window in a run of fewer ticks. -/
theorem pollDue_eq_false {window k : Nat} {run : List Event} (h : k + ticksIn run < window) :
    pollDue window k run = false := by
  induction run generalizing k with
  | nil => rfl
  | cons e es ih =>
    have hk : ¬ window ≤ k := by omega
    simp [pollDue, hk, ih (add_ticksIn_cons k e es ▸ h)]

/-- Polls are never further apart than the run is long. -/
theorem pollsInTime_of_ticksIn_lt {bound j : Nat} {run : List Event} (h : j + ticksIn run < bound) :
    pollsInTime bound j run = true := by
  induction run generalizing j with
  | nil => rfl
  | cons e es ih =>
    rw [add_ticksIn_cons] at h
    by_cases htick : e = .tick
    · rw [if_pos htick] at h
      simp [pollsInTime, htick, ih h, Nat.lt_of_add_right_lt h]
    · rw [if_neg htick] at h
      simp [pollsInTime, htick, ih h, ih (j := 0) (by omega)]

/-! ### A run after the poll that first sees a level -/

/-- Polls that sample the stable value report nothing (R164). -/
theorem debouncesTo_of_stable {r : Bool} {run rest : List Event} (hsteps : ∀ e ∈ run, e.isStep = true) {s : State}
    (hsched : s.schedule = run ++ rest) (hsample : pollsSample r s.swRaw run = true)
    (hstable : s.block.debStable = r) : DebouncesTo run.length s r false := by
  induction run generalizing s with
  | nil => exact .zero s r
  | cons e es ih =>
    obtain ⟨he, hes⟩ := List.forall_mem_cons.1 hsteps
    obtain ⟨hclear, hlevel, hsample⟩ := pollsSample_cons hsample
    by_cases hpoll : e.instr = some .debPoll
    · rw [Event.rawAfter_of_instr hpoll] at hsample
      have hp : pollPromotes Config.debounceW s.swRaw s.block = false :=
        pollPromotes_of_stable ((hlevel hpoll).trans hstable.symm)
      exact .of_poll hsched hpoll hp fun u husched huraw hublock =>
        ih hes husched (huraw ▸ hsample) (hublock ▸ (pollStable_of_not_promotes hp).trans hstable)
    · exact .of_leaves hsched he hclear hpoll fun u husched hleaves =>
        ih hes husched (hleaves.raw ▸ hsample) (hleaves.stable.trans hstable)

/-- The level r is a candidate: not stable, sampled by the last poll, and first seen k ticks ago. -/
structure State.Candidate (s : State) (r : Bool) (k : Nat) : Prop where
  notStable : r ≠ s.block.debStable
  last : r = s.block.debLast
  time : s.block.time = s.block.debSince + BitVec.ofNat Config.timeW k

/-- While the age of the candidate fits the time base, a poll of it promotes exactly from the window on. -/
theorem State.Candidate.pollPromotes_eq {s : State} {r : Bool} {k : Nat} (h : s.Candidate r k)
    (hk : k < 2 ^ Config.timeW) : pollPromotes Config.debounceW r s.block = decide (Config.debounceW ≤ k) := by
  have hel : (s.block.time - s.block.debSince).toNat = k := by
    rw [h.time, BitVec.add_comm, BitVec.add_sub_cancel, BitVec.toNat_ofNat, Nat.mod_eq_of_lt hk]
  rw [Bool.eq_iff_iff, promotes_iff, hel, decide_eq_true_eq]
  exact ⟨fun hp => hp.2.2, fun hdue => ⟨h.notStable, h.last, hdue⟩⟩

/-- A poll of the candidate that does not promote it leaves it the age it has. -/
theorem State.Candidate.of_poll {s u : State} {r : Bool} {k : Nat} (h : s.Candidate r k)
    (hp : pollPromotes Config.debounceW r s.block = false)
    (hu : u.block = pollBlock Config.debounceW r s.block) : u.Candidate r k := by
  refine ⟨?_, ?_, ?_⟩ <;> rw [hu]
  · exact h.notStable.trans_eq (pollStable_of_not_promotes hp).symm
  · rfl
  · exact h.time.trans (congrArg (· + _) (pollSince_of_last h.last).symm)

/-- A candidate ages by one at a tick. -/
theorem State.Candidate.of_leaves {s u : State} {r : Bool} {k : Nat} {e : Event} (h : s.Candidate r k)
    (hu : e.LeavesDebouncer s u) : u.Candidate r (if e = .tick then k + 1 else k) := by
  refine ⟨hu.stable ▸ h.notStable, hu.last ▸ h.last, ?_⟩
  rw [hu.time, hu.since]
  split
  · rw [h.time, BitVec.add_assoc, BitVec.ofNat_add]; rfl
  · exact h.time

/-- A candidate of age k, sampled j ticks ago when it was younger than the window: over a run whose polls sample it in
time (R236), it is promoted at the first due poll, and only there. -/
theorem debouncesTo_of_candidate {r : Bool} {run rest : List Event} (hsteps : ∀ e ∈ run, e.isStep = true) {s : State}
    {k j : Nat} (hsched : s.schedule = run ++ rest) (hsample : pollsSample r s.swRaw run = true)
    (hcand : s.Candidate r k) (hk : k < Config.debounceW + j) (hj : j < 2 ^ Config.timeW - Config.debounceW)
    (htime : pollsInTime (2 ^ Config.timeW - Config.debounceW) j run = true) :
    DebouncesTo run.length s r (pollDue Config.debounceW k run) := by
  induction run generalizing s k j with
  | nil => exact .zero s r
  | cons e es ih =>
    obtain ⟨he, hes⟩ := List.forall_mem_cons.1 hsteps
    obtain ⟨hclear, hlevel, hsample⟩ := pollsSample_cons hsample
    by_cases hpoll : e.instr = some .debPoll
    · obtain rfl := hlevel hpoll
      rw [Event.rawAfter_of_instr hpoll] at hsample
      rw [pollDue_cons_of_poll hpoll]
      rw [pollsInTime_cons_of_poll hpoll] at htime
      have hp := hcand.pollPromotes_eq (by omega)
      by_cases hdue : Config.debounceW ≤ k
      · rw [decide_eq_true hdue] at hp ⊢
        rw [Bool.true_or]
        exact .of_promotion hsched hpoll hp fun u husched huraw hublock =>
          debouncesTo_of_stable hes husched (huraw ▸ hsample) (hublock ▸ pollStable_of_promotes hp)
      · rw [decide_eq_false hdue] at hp ⊢
        rw [Bool.false_or]
        exact .of_poll hsched hpoll hp fun u husched huraw hublock =>
          ih hes husched (huraw ▸ hsample) (hcand.of_poll hp hublock) (by omega) (by omega) htime
    · obtain ⟨hj, htime⟩ := pollsInTime_cons_of_not_poll hpoll hj htime
      rw [pollDue_cons_of_not_poll hpoll]
      exact .of_leaves hsched he hclear hpoll fun u husched hleaves =>
        ih hes husched (hleaves.raw ▸ hsample) (hcand.of_leaves hleaves) (by split <;> omega) hj htime

/-- The poll that first sees a new level reports nothing and makes it a candidate of age 0. -/
theorem debouncesTo_of_first_poll {s : State} {first : Event} {run rest : List Event}
    (hsched : s.schedule = first :: (run ++ rest)) (hfirst : first.instr = some .debPoll)
    (hstable : s.swRaw ≠ s.block.debStable) (hlast : s.swRaw ≠ s.block.debLast)
    (hsteps : ∀ e ∈ run, e.isStep = true) (hsample : pollsSample s.swRaw s.swRaw run = true)
    (htime : pollsInTime (2 ^ Config.timeW - Config.debounceW) 0 run = true) :
    DebouncesTo (run.length + 1) s s.swRaw (pollDue Config.debounceW 0 run) := by
  have hp : pollPromotes Config.debounceW s.swRaw s.block = false :=
    Bool.eq_false_iff.2 fun hp => hlast (promotes_iff.1 hp).2.1
  have hpos := Config.debounceW_pos
  have hwindow := two_mul_debounceW_lt
  refine .of_poll hsched hfirst hp fun u husched huraw hublock =>
    debouncesTo_of_candidate hsteps husched (huraw ▸ hsample) (k := 0) (j := 0) ?_ (by omega) (by omega) htime
  refine ⟨?_, ?_, ?_⟩ <;> rw [hublock]
  · exact hstable.trans_eq (pollStable_of_not_promotes hp).symm
  · rfl
  · exact (pollSince_of_ne_last hlast).symm.trans (BitVec.add_zero _).symm

/-! ### The two statements about runs -/

/-- Settles O45: within the window no poll is due, and all of them are in time. -/
theorem shortGlitchReportsNothing : Obligations.ShortGlitchReportsNothing := by
  intro s first run rest hsched hfirst hstable hlast hsteps hsample hticks
  have hwindow := two_mul_debounceW_lt
  obtain ⟨t, hrun, hevents, htstable⟩ := debouncesTo_of_first_poll hsched hfirst hstable hlast hsteps hsample
    (pollsInTime_of_ticksIn_lt (by omega))
  rw [pollDue_eq_false (by omega)] at hevents htstable
  exact ⟨t, hrun, hevents false, hevents true, htstable⟩

/-- Settles O46: a held level is the one every poll samples. -/
theorem heldChangeReportsOnce : Obligations.HeldChangeReportsOnce := by
  intro s first run rest hsched hfirst hstable hlast hrun htime
  obtain ⟨t, hrun, hevents, htstable⟩ := debouncesTo_of_first_poll hsched hfirst hstable hlast
    (fun e he => (hrun e he).1) (pollsSample_of_holdsSwitch fun e he => (hrun e he).2) htime
  exact ⟨t, hrun, hevents false, hevents true, htstable⟩

end Sys2Proof.Machine
end

section
/-! The obligations of 44_interface.md: which steps are answered, NOP, and the register map that RDREG reads. -/

namespace Sys2Proof.Machine

/-! ### The response (R180) -/

/-- The only event that is no step of the block is a link transfer that presents no word, and it is refused. -/
theorem Event.isStep_of_runEvent_next {e : Event} {s t : State} (h : runEvent e s = .next t) : e.isStep = true := by
  cases e with
  | link bytes =>
    cases hw : wordOfBytes bytes with
    | some w => exact decide_eq_true ((wordOfBytes_isSome bytes).1 (Option.isSome_of_eq_some hw))
    | none => cases (runEvent_link_refused hw s).symm.trans h
  | _ => rfl

theorem runEvent_resp_isSome {e : Event} {s t : State} (hr : s.resp = none) (h : runEvent e s = .next t) :
    t.resp.isSome = e.word.isSome := by
  cases hw : e.word with
  | some w =>
    obtain ⟨b, r, hrun⟩ := runCommand_answers w s
    cases ((runEvent_of_word hw s).trans hrun).symm.trans h
    rfl
  | none =>
    obtain ⟨u, hrun, -, hresp, -⟩ := runEvent_environment (Event.isStep_of_runEvent_next h) hw hr
    cases hrun.symm.trans h
    rw [hresp]
    rfl

/-- Settles O14: the step takes the event with the response port empty, and then only a command fills it. -/
theorem onlyCommandsAreAnswered : Obligations.OnlyCommandsAreAnswered := by
  intro s t e rest hsched hstep
  rw [runEvent_resp_isSome rfl ((step_of_cons hsched).symm.trans hstep)]

/-! ### NOP (R181) -/

/-- Settles O16: the mask of opcode 0 looks at every bit, and its match value is the zero word. -/
theorem nopOnlyAnswers : Obligations.NopOnlyAnswers := by
  refine ⟨rfl, fun _ => rfl, fun w hop hw => ?_⟩
  have hop : opOf w = 0 := hop
  rw [decode_eq_reservedField (by omega), hop]
  exact fun hmask => hw ((BitVec.and_allOnes (x := w)).symm.trans hmask)

/-! ### RDREG (R182) -/

theorem exec_rdreg_of_regRead {idx : Nat} {s : State} {w : Word} (h : regRead idx s.block = some w) :
    exec (.rdreg idx) s = .next { s with resp := some ⟨false, w⟩ } :=
  (execRdreg_eq_next idx s).trans (by rw [h, Option.elim_some])

theorem exec_rdreg_unassigned {idx : Nat} (h : 7 ≤ idx) (s : State) :
    exec (.rdreg idx) s = .next { s with resp := some ⟨true, 4⟩ } :=
  (execRdreg_eq_next idx s).trans (by rw [regRead_eq_none _ h, Option.elim_none, errorData])

/-- The layout that STATUS and the motor registers share: two flags above a value of n bits. -/
theorem toNat_flags_or_field {n : Nat} (hn : n + 2 ≤ 32) (hi lo : Bool) (v : BitVec n) :
    (field (n + 1) (BitVec.ofBool hi) ||| field n (BitVec.ofBool lo) ||| field 0 v).toNat =
      v.toNat + 2 ^ n * lo.toNat + 2 ^ (n + 1) * hi.toNat := by
  have hv : (field 0 v).toNat = v.toNat := by rw [toNat_field v (by omega), pow_zero, one_mul]
  have hlow : (field n (BitVec.ofBool lo) ||| field 0 v).toNat = 2 ^ n * lo.toNat + v.toNat := by
    rw [toNat_field_or _ (by omega) (hv ▸ v.isLt), hv, BitVec.toNat_ofBool]
  have hlt : 2 ^ n * lo.toNat + v.toNat < 2 ^ (n + 1) := by
    have hbit : 2 ^ n * lo.toNat ≤ 2 ^ n * 1 := Nat.mul_le_mul_left _ lo.toNat_le
    have hval := v.isLt
    rw [pow_succ]
    omega
  rw [BitVec.or_assoc, toNat_field_or _ (by omega) (hlow ▸ hlt), hlow, BitVec.toNat_ofBool]
  omega

theorem toNat_statusWord {cw tw : Nat} (b : Block cw tw) :
    (statusWord b).toNat = b.debStable.toNat + 2 * b.debLast.toNat + 4 * b.servoEn.toNat := by
  rw [← BitVec.toNat_ofBool b.debStable]
  exact toNat_flags_or_field (by decide) b.servoEn b.debLast (BitVec.ofBool b.debStable)

theorem toNat_motorWord (m : Motor) :
    (motorWord m).toNat = m.duty.toNat + 2 ^ 16 * m.in1.toNat + 2 ^ 17 * m.in2.toNat :=
  toNat_flags_or_field (by decide) m.in2 m.in1 m.duty

/-- Settles O27: each assigned index reads its row of the map, whose packed words are sums of their fields and whose
other words are the register extended to 32 bits. -/
theorem rdregReadsRegisterMap : Obligations.RdregReadsRegisterMap := by
  intro s
  refine ⟨_, _, _, _, _, _, _, exec_rdreg_of_regRead rfl, exec_rdreg_of_regRead rfl, exec_rdreg_of_regRead rfl,
    exec_rdreg_of_regRead rfl, exec_rdreg_of_regRead rfl, exec_rdreg_of_regRead rfl, exec_rdreg_of_regRead rfl,
    fun _ h => exec_rdreg_unassigned h s, toNat_statusWord s.block, ?snapA, ?snapB,
    toNat_motorWord s.block.motor.a, toNat_motorWord s.block.motor.b, ?servo, ?time⟩
  case snapA => exact BitVec.toInt_signExtend_of_le le_rfl
  case snapB => exact BitVec.toInt_signExtend_of_le le_rfl
  case servo => exact BitVec.toNat_setWidth_of_le (by decide)
  case time => exact BitVec.toNat_setWidth_of_le le_rfl

end Sys2Proof.Machine
end

section
/-! The obligations of 60_exceptions.md: which words are answered with an error, that an error writes nothing else, and
that edges commute. -/

namespace Sys2Proof

/-! ### The decoder's errors (R202 to R206) -/

theorem decode_eq_illegalOp {w : Word} (hop : 9 ≤ opOf w) : decode w = .error .illegalOp := if_pos hop

/-- A word whose reserved run of bits is 0 is decoded field by field. -/
theorem decode_eq_decodeFields {op lo n : Nat} {w : Word} (hw : opOf w = op) (hop : op < 9)
    (hmask : maskOf op = field 28 (BitVec.allOnes 4) ||| field lo (BitVec.allOnes n)) (hn : lo + n ≤ 28)
    (hzero : w.extractLsb' lo n = 0) : decode w = decodeFields op w := by
  subst hw
  have hpass : w &&& maskOf (opOf w) = matchOf (opOf w) := (and_maskOf_eq_matchOf hop hmask hn).2 hzero
  exact (if_neg (not_le.2 hop)).trans (if_neg (not_not.2 hpass))

/-- SEL = 00 is no selection: every selection has a bit set. -/
theorem selOf_eq_none {w : Word} (h : w.extractLsb' 26 2 = 0) : selOf w = none := by
  cases hsel : selOf w with
  | none => rfl
  | some sel =>
    have hzero : selBits sel = 0 := (selBits_of_selOf hsel).trans h
    cases sel <;> exact absurd hzero (by decide)

theorem decode_eq_reservedSel {w : Word} (hop : opOf w = 1 ∨ opOf w = 2) (hsel : w.extractLsb' 26 2 = 0)
    (hzero : w.extractLsb' 0 26 = 0) : decode w = .error .reservedSel := by
  have hnone : selOf w = none := selOf_eq_none hsel
  rcases hop with hop | hop
  all_goals rw [decode_eq_decodeFields hop (by decide) (by decide) (by decide) hzero, decodeFields, hnone]

end Sys2Proof

namespace Sys2Proof.Machine

/-- Settles O4: the decoder looks at the opcode first. -/
theorem illegalOpcodeAnswered : Obligations.IllegalOpcodeAnswered :=
  fun _ s hop => runCommand_error (decode_eq_illegalOp hop) s

/-- Settles O6: no reserved bit is set, so the decoder comes to the selection and finds none. -/
theorem reservedSelectionAnswered : Obligations.ReservedSelectionAnswered :=
  fun _ s hop hsel hzero => runCommand_error (decode_eq_reservedSel hop hsel hzero) s

/-- Settles O7: the word decodes to RDREG of its index, which the register map does not assign. -/
theorem unassignedIndexAnswered : Obligations.UnassignedIndexAnswered := by
  intro w s hop hzero hidx
  have hdecode : decode w = .ok (.rdreg (idxOf w)) :=
    decode_eq_decodeFields hop (by decide) (by decide) (by decide) hzero
  exact (runCommand_ok hdecode s).trans (exec_rdreg_unassigned hidx s)

/-! ### Errors write no other state (R200) -/

/-- RDREG is the only command that answers an error, and it writes nothing but its answer. -/
theorem exec_error_frame {i : Instr} {s t : State} {data : Word} (h : exec i s = .next t)
    (hresp : t.resp = some ⟨true, data⟩) : t = { s with resp := some ⟨true, data⟩ } := by
  cases i with
  | rdreg idx =>
    cases (execRdreg_eq_next idx s).symm.trans h
    rw [← hresp]
  | _ => cases h; cases hresp

/-- Settles O8: the error is the decoder's, which `runCommand` answers alone, or RDREG's. -/
theorem errorResponseChangesNothing : Obligations.ErrorResponseChangesNothing := by
  intro w s t data h hresp
  cases hd : decode w with
  | ok i => exact exec_error_frame ((runCommand_ok hd s).symm.trans h) hresp
  | error e =>
    cases (runCommand_error hd s).symm.trans h
    rw [← hresp]

/-! ### Edges commute (R211) -/

theorem addEdge_comm {cw tw : Nat} (c d : Channel) (b : Block cw tw) :
    addEdge d (addEdge c b) = addEdge c (addEdge d b) := by
  by_cases hcd : c = d
  · rw [hcd]
  · simp only [addEdge, Pair.get_set_ne _ hcd, Pair.get_set_ne _ (Ne.symm hcd), Pair.set_comm _ hcd]

/-- Two scheduled edges are taken one after the other and write only the counters. -/
theorem core_run_encEdge_encEdge {s : State} {c d : Channel} {rest : List Event}
    (hsched : s.schedule = .encEdge c :: .encEdge d :: rest) :
    Sys2Proof.core.run 2 s =
      .next { s with block := addEdge d (addEdge c s.block), schedule := rest, resp := none } :=
  (core_run_succ 1 ((step_of_cons hsched).trans (runEvent_encEdge c _))).trans
    (core_run_succ 0 ((step_of_cons rfl).trans (runEvent_encEdge d _)))

/-- Settles O37: both orders end in the same state since `addEdge` commutes, and two edges of one channel add 1 + 1. -/
theorem edgesCommuteAndBothCount : Obligations.EdgesCommuteAndBothCount := by
  refine ⟨fun s t c d rest hrun => ?_, fun s c rest hsched => ?_⟩
  · rw [core_run_encEdge_encEdge rfl] at hrun ⊢
    rwa [addEdge_comm d c]
  · refine ⟨_, core_run_encEdge_encEdge hsched, ?_⟩
    rw [addEdge_cnt_get, addEdge_cnt_get, BitVec.add_assoc]
    rfl

end Sys2Proof.Machine
end

section
/-! The obligations of 70_reset_and_hazards.md: what `Reset` restores, and what a burst of edges closer than
MIN_EDGE_INTERVAL counts. -/

namespace Sys2Proof.Machine

/-- A scheduled `Reset` is the whole of its step (R230). -/
theorem step_reset {s : State} {rest : List Event} (hsched : s.schedule = .reset :: rest) :
    step s = .next (resetStep { s with schedule := rest, resp := none }) := step_of_cons hsched

/-- Settles O33: the burst gains the `burstGain` of its draw, which lies in 1..k whatever number is drawn. -/
theorem burstGainsBetweenOneAndAll : Obligations.BurstGainsBetweenOneAndAll := by
  intro s c k rest hsched hk
  obtain ⟨hone, hall⟩ := burstGain_bounds s.draws hk
  exact ⟨_, burstGain s.draws k, (step_of_cons hsched).trans (runEvent_encBurst c k _), hone, hall, rfl⟩

/-- Settles O36: `resetStep` puts the reset block in place and keeps the raw and phase levels and what is still
scheduled; the machine's first state has that block, whose fields are R41's values. -/
theorem resetRestoresReleasedStopped : Obligations.ResetRestoresReleasedStopped :=
  ⟨fun _ _ hsched => ⟨_, step_reset hsched, resetStep_resp _, resetStep_swRaw _, resetStep_phaseA _,
    resetStep_phaseB _, resetStep_schedule _, resetStep_block _⟩, rfl⟩

end Sys2Proof.Machine
end
